-- ==== Sys2Proof/Word.lean ====
section
/-!
DEFINITION. The machine words of js-chip8 CORE and their plainest forms.

Widths are those of spec/00_scope.md R5 and spec/30_encoding.md R57.
-/

namespace Sys2Proof

/-- An 8-bit value: a data register, a memory cell, an immediate (R13, R36, R59). -/
abbrev Byte := BitVec 8

/-- A 16-bit value: `I`, `PC`, a stack entry, `IR`, an instruction word (R18, R19, R22, R29, R56). -/
abbrev Word := BitVec 16

/-- A 4-bit field: `op`, `n` (R57). -/
abbrev Nibble := BitVec 4

/-- A 4-bit data register index; every value selects a register (R13, R59). -/
abbrev RegIdx := BitVec 4

/-- A 12-bit address field `nnn` (R57, R59). -/
abbrev Addr := BitVec 12

end Sys2Proof
end

