-- ==== Sys2Proof/Syntax.lean ====
section
/-!
DEFINITION. The instructions: one constructor for each row of spec/opcode_table.json, and the
program image a host load takes.

A constructor carries every bit of its word outside the row's fixed bits, the don't-care bits too,
in the fields that the format of R58 gives its family; so an instruction and its word determine one
another (log 19).
-/

namespace Sys2Proof

/-- An instruction of js-chip8 CORE (30_encoding.md R60, R61). -/
inductive Instr where
  /-- 1NNN: jump to `nnn` (R67) -/
  | jp (nnn : Addr)
  /-- 2NNN: push the address of the CALL, jump to `nnn` (R68) -/
  | call (nnn : Addr)
  /-- 3XNN: skip if `Vx = nn` (R69) -/
  | seImm (x : RegIdx) (nn : Byte)
  /-- 4XNN: skip if `Vx ≠ nn` (R70) -/
  | sneImm (x : RegIdx) (nn : Byte)
  /-- 5XYN: skip if `Vx = Vy`; `n` is a don't-care (R71) -/
  | seReg (x : RegIdx) (y : RegIdx) (n : Nibble)
  /-- 6XNN: `Vx <- nn` (R74) -/
  | ldImm (x : RegIdx) (nn : Byte)
  /-- 7XNN: `Vx <- Vx + nn`, no flag (R75) -/
  | addImm (x : RegIdx) (nn : Byte)
  /-- 8XY0: `Vx <- Vy` (R76) -/
  | ldReg (x : RegIdx) (y : RegIdx)
  /-- 8XY1: `Vx <- Vx | Vy` (R77) -/
  | orReg (x : RegIdx) (y : RegIdx)
  /-- 8XY2: `Vx <- Vx & Vy` (R78) -/
  | andReg (x : RegIdx) (y : RegIdx)
  /-- 8XY3: `Vx <- Vx ^ Vy` (R79) -/
  | xorReg (x : RegIdx) (y : RegIdx)
  /-- 8XY4: `Vx <- Vx + Vy`, `VF` = carry (R80) -/
  | addReg (x : RegIdx) (y : RegIdx)
  /-- 8XY5: `Vx <- Vx - Vy`, `VF` = not borrow (R81) -/
  | sub (x : RegIdx) (y : RegIdx)
  /-- 8XY6: shift right by one, `VF` = the bit shifted out (R82) -/
  | shr (x : RegIdx) (y : RegIdx)
  /-- 8XY7: unassigned sub-opcode, no-op; `x`, `y` are don't-cares (R94) -/
  | nop87 (x : RegIdx) (y : RegIdx)
  /-- 8XY8: unassigned sub-opcode, no-op; `x`, `y` are don't-cares (R94) -/
  | nop88 (x : RegIdx) (y : RegIdx)
  /-- 8XY9: unassigned sub-opcode, no-op; `x`, `y` are don't-cares (R94) -/
  | nop89 (x : RegIdx) (y : RegIdx)
  /-- 8XYA: unassigned sub-opcode, no-op; `x`, `y` are don't-cares (R94) -/
  | nop8A (x : RegIdx) (y : RegIdx)
  /-- 8XYB: unassigned sub-opcode, no-op; `x`, `y` are don't-cares (R94) -/
  | nop8B (x : RegIdx) (y : RegIdx)
  /-- 8XYC: unassigned sub-opcode, no-op; `x`, `y` are don't-cares (R94) -/
  | nop8C (x : RegIdx) (y : RegIdx)
  /-- 8XYD: unassigned sub-opcode, no-op; `x`, `y` are don't-cares (R94) -/
  | nop8D (x : RegIdx) (y : RegIdx)
  /-- 8XYE: unassigned sub-opcode, no-op; `x`, `y` are don't-cares (R94) -/
  | nop8E (x : RegIdx) (y : RegIdx)
  /-- 8XYF: unassigned sub-opcode, no-op; `x`, `y` are don't-cares (R94) -/
  | nop8F (x : RegIdx) (y : RegIdx)
  /-- ANNN: `I <- nnn` (R85) -/
  | ldI (nnn : Addr)
  /-- BNNN: jump to `nnn + V0` (R72) -/
  | jpV0 (nnn : Addr)
  /-- CXNN: `Vx <-` a random byte `& nn` (R86) -/
  | rnd (x : RegIdx) (nn : Byte)
  /-- DXYN: draw an `n`-row sprite from `I` at `(Vx, Vy)` (R87) -/
  | drw (x : RegIdx) (y : RegIdx) (n : Nibble)
  /-- 0NNN: no-op; `nnn` is a don't-care (R90) -/
  | nop0 (nnn : Addr)
  /-- 9XYN: no-op; every field is a don't-care (R91) -/
  | nop9 (x : RegIdx) (y : RegIdx) (n : Nibble)
  /-- EXNN: no-op; every field is a don't-care (R92) -/
  | nopE (x : RegIdx) (nn : Byte)
  /-- FXNN: no-op; every field is a don't-care (R93) -/
  | nopF (x : RegIdx) (nn : Byte)
  deriving DecidableEq, Repr

/-- The rows of spec/opcode_table.json by name. -/
inductive Mnemonic where
  | jp | call | seImm | sneImm | seReg | ldImm | addImm | ldReg | orReg | andReg | xorReg | addReg | sub | shr
  | nop87 | nop88 | nop89 | nop8A | nop8B | nop8C | nop8D | nop8E | nop8F
  | ldI | jpV0 | rnd | drw | nop0 | nop9 | nopE | nopF
  deriving DecidableEq, Repr

/-- The row of the opcode table an instruction belongs to. -/
def Instr.mnemonic : Instr → Mnemonic
  | .jp _ => .jp
  | .call _ => .call
  | .seImm _ _ => .seImm
  | .sneImm _ _ => .sneImm
  | .seReg _ _ _ => .seReg
  | .ldImm _ _ => .ldImm
  | .addImm _ _ => .addImm
  | .ldReg _ _ => .ldReg
  | .orReg _ _ => .orReg
  | .andReg _ _ => .andReg
  | .xorReg _ _ => .xorReg
  | .addReg _ _ => .addReg
  | .sub _ _ => .sub
  | .shr _ _ => .shr
  | .nop87 _ _ => .nop87
  | .nop88 _ _ => .nop88
  | .nop89 _ _ => .nop89
  | .nop8A _ _ => .nop8A
  | .nop8B _ _ => .nop8B
  | .nop8C _ _ => .nop8C
  | .nop8D _ _ => .nop8D
  | .nop8E _ _ => .nop8E
  | .nop8F _ _ => .nop8F
  | .ldI _ => .ldI
  | .jpV0 _ => .jpV0
  | .rnd _ _ => .rnd
  | .drw _ _ _ => .drw
  | .nop0 _ => .nop0
  | .nop9 _ _ _ => .nop9
  | .nopE _ _ => .nopE
  | .nopF _ _ => .nopF

/-- What a host load copies into memory: a byte sequence and the address of its first byte
(70_reset_and_hazards.md R122). -/
structure ProgramImage where
  bytes  : List Byte
  origin : Nat
  deriving DecidableEq, Repr

end Sys2Proof
end

