-- ==== Sys2Proof/Config.lean ====
section
/-!
DEFINITION. What this implementation fixes (spec/00_scope.md R5) and the values the spec leaves free.
-/

namespace Sys2Proof.Config

/-- `MEM_SIZE`: bytes of memory, addresses 0x000 to 0xFFF (R5). It is also the halting bound. -/
abbrev memSize : Nat := 4096

/-- `ORIGIN`: the default load address and the reset value of `PC` (R5). -/
abbrev origin : Nat := 0x200

/-- `STACK_DEPTH`: entries of the return stack, the capacity `SP` may reach (R5, R23). -/
abbrev stackDepth : Nat := 16

/-- `FB_W`: columns of the framebuffer (R5, R26). -/
abbrev fbWidth : Nat := 64

/-- `FB_H`: rows of the framebuffer (R5, R26). -/
abbrev fbHeight : Nat := 32

/-- The values of the parameter `SHR_SOURCE` that the spec leaves open (R5, 92_eei_decisions.md D6). -/
inductive ShrSource where
  /-- the shift reads `Vx` -/
  | x
  /-- the shift reads `Vy` -/
  | y
  deriving DecidableEq, Repr

/-- `draw8()`: the byte a CXNN draws, "any value 0 to 255, under no law" (00_scope.md R9).
A free value: applied to the count of free values taken so far. Log 1. -/
opaque drawByte : Nat → Byte

/-- What `running` holds after a core fault: "unspecified, and a model treats it as a draw"
(10_state.md R28). A free value, in the same form. Log 2. -/
opaque runningAfterFault : Nat → Bool

/-- Whether `COMPLETE_OUT` is signalled after a reset in mid-run: "a draw"
(70_reset_and_hazards.md R121). A free value, in the same form. Log 3. -/
opaque completeAfterReset : Nat → Bool

end Sys2Proof.Config
end

