-- ==== Sys2Proof/WellFormed.lean ====
section
/-!
DEFINITION. Well-formedness: of an instruction's operands (each value fits its field of
30_encoding.md R57) and of a program image (it lies within memory, 70_reset_and_hazards.md R122).
-/

namespace Sys2Proof

/-- An operand as written: the width of its field in bits, and its value. -/
structure Operand where
  width : Nat
  value : Nat
  deriving DecidableEq, Repr

/-- The value fits the field: an unsigned natural below `2 ^ width` (R6, R59). -/
def Operand.fits (o : Operand) : Bool := decide (o.value < 2 ^ o.width)

/-- The operands of an instruction, in the order of its word, don't-care fields included. -/
def Instr.operands : Instr → List Operand
  | .jp nnn => [⟨12, nnn.toNat⟩]
  | .call nnn => [⟨12, nnn.toNat⟩]
  | .seImm x nn => [⟨4, x.toNat⟩, ⟨8, nn.toNat⟩]
  | .sneImm x nn => [⟨4, x.toNat⟩, ⟨8, nn.toNat⟩]
  | .seReg x y n => [⟨4, x.toNat⟩, ⟨4, y.toNat⟩, ⟨4, n.toNat⟩]
  | .ldImm x nn => [⟨4, x.toNat⟩, ⟨8, nn.toNat⟩]
  | .addImm x nn => [⟨4, x.toNat⟩, ⟨8, nn.toNat⟩]
  | .ldReg x y => [⟨4, x.toNat⟩, ⟨4, y.toNat⟩]
  | .orReg x y => [⟨4, x.toNat⟩, ⟨4, y.toNat⟩]
  | .andReg x y => [⟨4, x.toNat⟩, ⟨4, y.toNat⟩]
  | .xorReg x y => [⟨4, x.toNat⟩, ⟨4, y.toNat⟩]
  | .addReg x y => [⟨4, x.toNat⟩, ⟨4, y.toNat⟩]
  | .sub x y => [⟨4, x.toNat⟩, ⟨4, y.toNat⟩]
  | .shr x y => [⟨4, x.toNat⟩, ⟨4, y.toNat⟩]
  | .nop87 x y => [⟨4, x.toNat⟩, ⟨4, y.toNat⟩]
  | .nop88 x y => [⟨4, x.toNat⟩, ⟨4, y.toNat⟩]
  | .nop89 x y => [⟨4, x.toNat⟩, ⟨4, y.toNat⟩]
  | .nop8A x y => [⟨4, x.toNat⟩, ⟨4, y.toNat⟩]
  | .nop8B x y => [⟨4, x.toNat⟩, ⟨4, y.toNat⟩]
  | .nop8C x y => [⟨4, x.toNat⟩, ⟨4, y.toNat⟩]
  | .nop8D x y => [⟨4, x.toNat⟩, ⟨4, y.toNat⟩]
  | .nop8E x y => [⟨4, x.toNat⟩, ⟨4, y.toNat⟩]
  | .nop8F x y => [⟨4, x.toNat⟩, ⟨4, y.toNat⟩]
  | .ldI nnn => [⟨12, nnn.toNat⟩]
  | .jpV0 nnn => [⟨12, nnn.toNat⟩]
  | .rnd x nn => [⟨4, x.toNat⟩, ⟨8, nn.toNat⟩]
  | .drw x y n => [⟨4, x.toNat⟩, ⟨4, y.toNat⟩, ⟨4, n.toNat⟩]
  | .nop0 nnn => [⟨12, nnn.toNat⟩]
  | .nop9 x y n => [⟨4, x.toNat⟩, ⟨4, y.toNat⟩, ⟨4, n.toNat⟩]
  | .nopE x nn => [⟨4, x.toNat⟩, ⟨8, nn.toNat⟩]
  | .nopF x nn => [⟨4, x.toNat⟩, ⟨8, nn.toNat⟩]

/-- Every operand fits its field. The fields are "structurally 4 bits" (R13), 8 or 12, so every term of
`Instr` passes (`Instr.wellFormed_eq_true`); the check says what the types enforce. -/
def Instr.wellFormed (i : Instr) : Bool := i.operands.all Operand.fits

/-- The image lies within memory: `origin + L <= 4096`, else `LOAD_OUT_OF_RANGE` (R122). -/
def ProgramImage.wellFormed (p : ProgramImage) : Bool :=
  decide (p.origin + p.bytes.length ≤ Config.memSize)

end Sys2Proof
end

