-- ==== Sys2Proof/Decode.lean ====
section
/-!
DEFINITION. Decoding and encoding (spec/30_encoding.md).

The fields of a word, the two dispatch tables, a decoder of bytes that is total and rejects by name,
the encoder, and the rows of the opcode table as masks and patterns.
-/

namespace Sys2Proof

/-- `op = w[15:12]` (R57). -/
def fieldOp (w : Word) : Nibble := w.extractLsb' 12 4

/-- `x = w[11:8]` (R57). -/
def fieldX (w : Word) : RegIdx := w.extractLsb' 8 4

/-- `y = w[7:4]` (R57). -/
def fieldY (w : Word) : RegIdx := w.extractLsb' 4 4

/-- `n = w[3:0]` (R57). -/
def fieldN (w : Word) : Nibble := w.extractLsb' 0 4

/-- `nn = w[7:0]` (R57). -/
def fieldNn (w : Word) : Byte := w.extractLsb' 0 8

/-- `nnn = w[11:0]` (R57). -/
def fieldNnn (w : Word) : Addr := w.extractLsb' 0 12

/-- The high byte of a word, `w[15:8]`: the byte at the lower address (R44). -/
def highByte (w : Word) : Byte := w.extractLsb' 8 8

/-- The low byte of a word, `w[7:0]` (R44). -/
def lowByte (w : Word) : Byte := w.extractLsb' 0 8

/-- Two bytes combined big-endian: `(hi << 8) | lo` (00_scope.md R8, R44). -/
def wordOfBytes (hi lo : Byte) : Word := hi ++ lo

/-- The secondary dispatch of family 8, on `n` (R61). The last arm is `n = 0xF`, the one value left. -/
def decodeFamily8 (w : Word) : Instr :=
  match fieldN w with
  | 0x0 => .ldReg (fieldX w) (fieldY w)
  | 0x1 => .orReg (fieldX w) (fieldY w)
  | 0x2 => .andReg (fieldX w) (fieldY w)
  | 0x3 => .xorReg (fieldX w) (fieldY w)
  | 0x4 => .addReg (fieldX w) (fieldY w)
  | 0x5 => .sub (fieldX w) (fieldY w)
  | 0x6 => .shr (fieldX w) (fieldY w)
  | 0x7 => .nop87 (fieldX w) (fieldY w)
  | 0x8 => .nop88 (fieldX w) (fieldY w)
  | 0x9 => .nop89 (fieldX w) (fieldY w)
  | 0xA => .nop8A (fieldX w) (fieldY w)
  | 0xB => .nop8B (fieldX w) (fieldY w)
  | 0xC => .nop8C (fieldX w) (fieldY w)
  | 0xD => .nop8D (fieldX w) (fieldY w)
  | 0xE => .nop8E (fieldX w) (fieldY w)
  | _ => .nop8F (fieldX w) (fieldY w)

/-- The primary dispatch, on `op` (R60, R63). The last arm is `op = 0xF`, the one value left. -/
def decodeWord (w : Word) : Instr :=
  match fieldOp w with
  | 0x0 => .nop0 (fieldNnn w)
  | 0x1 => .jp (fieldNnn w)
  | 0x2 => .call (fieldNnn w)
  | 0x3 => .seImm (fieldX w) (fieldNn w)
  | 0x4 => .sneImm (fieldX w) (fieldNn w)
  | 0x5 => .seReg (fieldX w) (fieldY w) (fieldN w)
  | 0x6 => .ldImm (fieldX w) (fieldNn w)
  | 0x7 => .addImm (fieldX w) (fieldNn w)
  | 0x8 => decodeFamily8 w
  | 0x9 => .nop9 (fieldX w) (fieldY w) (fieldN w)
  | 0xA => .ldI (fieldNnn w)
  | 0xB => .jpV0 (fieldNnn w)
  | 0xC => .rnd (fieldX w) (fieldNn w)
  | 0xD => .drw (fieldX w) (fieldY w) (fieldN w)
  | 0xE => .nopE (fieldX w) (fieldNn w)
  | _ => .nopF (fieldX w) (fieldNn w)

/-- Why bytes do not decode. -/
inductive DecodeError where
  /-- fewer than the two bytes every instruction has (R56) -/
  | truncated
  deriving DecidableEq, Repr

/-- The decoder of bytes: "a decoder always consumes two bytes" (R56). It answers the instruction and
the bytes after it. No word is rejected (R64); only a sequence too short to hold one is. -/
def decode : List Byte → Except DecodeError (Instr × List Byte)
  | hi :: lo :: rest => .ok (decodeWord (wordOfBytes hi lo), rest)
  | _ => .error .truncated

/-- Format A: `op`, `nnn` (R58). -/
def formatA (op : Nibble) (nnn : Addr) : Word := op ++ nnn

/-- Format B: `op`, `x`, `nn` (R58). -/
def formatB (op : Nibble) (x : RegIdx) (nn : Byte) : Word := op ++ (x ++ nn : BitVec 12)

/-- Format C: `op`, `x`, `y`, `n` (R58). -/
def formatC (op : Nibble) (x y : RegIdx) (n : Nibble) : Word :=
  op ++ (x ++ (y ++ n : BitVec 8) : BitVec 12)

/-- The word of an instruction, by the format and the fixed bits of its row (R58, R60, R61). -/
def encode : Instr → Word
  | .jp nnn => formatA 0x1 nnn
  | .call nnn => formatA 0x2 nnn
  | .seImm x nn => formatB 0x3 x nn
  | .sneImm x nn => formatB 0x4 x nn
  | .seReg x y n => formatC 0x5 x y n
  | .ldImm x nn => formatB 0x6 x nn
  | .addImm x nn => formatB 0x7 x nn
  | .ldReg x y => formatC 0x8 x y 0x0
  | .orReg x y => formatC 0x8 x y 0x1
  | .andReg x y => formatC 0x8 x y 0x2
  | .xorReg x y => formatC 0x8 x y 0x3
  | .addReg x y => formatC 0x8 x y 0x4
  | .sub x y => formatC 0x8 x y 0x5
  | .shr x y => formatC 0x8 x y 0x6
  | .nop87 x y => formatC 0x8 x y 0x7
  | .nop88 x y => formatC 0x8 x y 0x8
  | .nop89 x y => formatC 0x8 x y 0x9
  | .nop8A x y => formatC 0x8 x y 0xA
  | .nop8B x y => formatC 0x8 x y 0xB
  | .nop8C x y => formatC 0x8 x y 0xC
  | .nop8D x y => formatC 0x8 x y 0xD
  | .nop8E x y => formatC 0x8 x y 0xE
  | .nop8F x y => formatC 0x8 x y 0xF
  | .ldI nnn => formatA 0xA nnn
  | .jpV0 nnn => formatA 0xB nnn
  | .rnd x nn => formatB 0xC x nn
  | .drw x y n => formatC 0xD x y n
  | .nop0 nnn => formatA 0x0 nnn
  | .nop9 x y n => formatC 0x9 x y n
  | .nopE x nn => formatB 0xE x nn
  | .nopF x nn => formatB 0xF x nn

/-- The bytes of an instruction as memory stores them, the high byte first (R44). -/
def encodeBytes (i : Instr) : List Byte := [highByte (encode i), lowByte (encode i)]

/-- The instruction the decoder reads from an instruction whose bits are `w`, numbered as
spec/opcode_table.json numbers them; bits at and above `nbits` are zero. The word is laid out as memory
stores it and given to `decode`. -/
def decodeTableWord (nbits w : Nat) : Option Instr :=
  let word : Word := BitVec.ofNat 16 (w % 2 ^ nbits)
  match decode [highByte word, lowByte word] with
  | .ok (i, _) => some i
  | .error _ => none

/-- A row of spec/opcode_table.json: it holds the words that agree with `pattern` (the table's "match")
on the bits of `mask`. -/
structure OpcodeRow where
  mnemonic : Mnemonic
  pattern  : Word
  mask     : Word
  deriving DecidableEq, Repr

/-- The row holds the word. -/
def OpcodeRow.holds (r : OpcodeRow) (w : Word) : Bool := w &&& r.mask == r.pattern

/-- The rows of families 0 to 7. -/
def opcodeRowsLow : List OpcodeRow :=
  [⟨.nop0, 0x0000, 0xF000⟩, ⟨.jp, 0x1000, 0xF000⟩, ⟨.call, 0x2000, 0xF000⟩,
   ⟨.seImm, 0x3000, 0xF000⟩, ⟨.sneImm, 0x4000, 0xF000⟩, ⟨.seReg, 0x5000, 0xF000⟩,
   ⟨.ldImm, 0x6000, 0xF000⟩, ⟨.addImm, 0x7000, 0xF000⟩]

/-- The rows of family 8. -/
def opcodeRowsFamily8 : List OpcodeRow :=
  [⟨.ldReg, 0x8000, 0xF00F⟩, ⟨.orReg, 0x8001, 0xF00F⟩, ⟨.andReg, 0x8002, 0xF00F⟩,
   ⟨.xorReg, 0x8003, 0xF00F⟩, ⟨.addReg, 0x8004, 0xF00F⟩, ⟨.sub, 0x8005, 0xF00F⟩,
   ⟨.shr, 0x8006, 0xF00F⟩, ⟨.nop87, 0x8007, 0xF00F⟩, ⟨.nop88, 0x8008, 0xF00F⟩,
   ⟨.nop89, 0x8009, 0xF00F⟩, ⟨.nop8A, 0x800A, 0xF00F⟩, ⟨.nop8B, 0x800B, 0xF00F⟩,
   ⟨.nop8C, 0x800C, 0xF00F⟩, ⟨.nop8D, 0x800D, 0xF00F⟩, ⟨.nop8E, 0x800E, 0xF00F⟩,
   ⟨.nop8F, 0x800F, 0xF00F⟩]

/-- The rows of families 9 to F. -/
def opcodeRowsHigh : List OpcodeRow :=
  [⟨.nop9, 0x9000, 0xF000⟩, ⟨.ldI, 0xA000, 0xF000⟩, ⟨.jpV0, 0xB000, 0xF000⟩,
   ⟨.rnd, 0xC000, 0xF000⟩, ⟨.drw, 0xD000, 0xF000⟩, ⟨.nopE, 0xE000, 0xF000⟩,
   ⟨.nopF, 0xF000, 0xF000⟩]

/-- The rows of spec/opcode_table.json, by their masks and patterns. -/
def opcodeTable : List OpcodeRow := opcodeRowsLow ++ opcodeRowsFamily8 ++ opcodeRowsHigh

end Sys2Proof
end

