-- ==== Sys2Proof/Machine/State.lean ====
section
/-!
DEFINITION. The machine state (spec/10_state.md), the core faults and refusals, and reset.

State is plain data and holds every element of 10_state.md R32, and one field of the model's own.
-/

namespace Sys2Proof.Machine

/-- Memory: the cells that do not hold 0, in ascending order of address (20_memory.md R36).
An address that is not listed reads 0, which is what reset leaves in every cell (R25, R39). -/
abbrev Memory := List Host.Cell

/-- Every cell listed lies at or above `low` and inside memory, holds no 0, and lies above the cell
before it. -/
def Memory.canonicalFrom (low : Nat) : Memory → Bool
  | [] => true
  | cell :: rest =>
    decide (low ≤ cell.1) && decide (cell.1 < Config.memSize) && decide (cell.2 ≠ 0)
      && Memory.canonicalFrom (cell.1 + 1) rest

/-- The canonical form of memory: equal memories are equal lists. -/
def Memory.wf (m : Memory) : Bool := Memory.canonicalFrom 0 m

/-- The framebuffer: `fb[x][y]`, columns of rows, `true` meaning set (10_state.md R26). -/
abbrev Framebuffer := Vector (Vector Bool Config.fbHeight) Config.fbWidth

/-- The lifecycle of the core (10_state.md R27). -/
inductive Lifecycle where
  /-- IDLE: constructed or after reset, not running -/
  | idle
  /-- RUNNING: stepping under continuous run -/
  | running
  /-- HALTED: ran and naturally stopped -/
  | halted
  /-- FAULTED: a fatal error aborted execution -/
  | faulted
  deriving DecidableEq, Repr

/-- The record of the fatal error that put the core in FAULTED: the cause and its information
(10_state.md R31, 60_exceptions.md R97). -/
inductive FaultRecord where
  /-- NONE: no fault -/
  | none
  /-- STACK_OVERFLOW: `pc` is the address of the CALL -/
  | stackOverflow (pc : Word)
  /-- FETCH_OUT_OF_BOUNDS: `pc` is the address that could not be fetched -/
  | fetchOutOfBounds (pc : Word)
  /-- READ_OUT_OF_BOUNDS: `pc` is the address of the DRW, `addr` the address past memory -/
  | readOutOfBounds (pc addr : Word)
  deriving DecidableEq, Repr

/-- Why a step stops the model instead of answering a next state. The core's own faults are NOT here:
raising one is a next state, with the record written and `lifecycle` FAULTED (log 4). -/
inductive Fault where
  /-- Raised by `step` in FAULTED: the core "takes no further step until reset" and the recorded fault is
  reported again (60_exceptions.md R98, R105). Safe: the model stops where the spec's core is stuck. -/
  | stuck (record : FaultRecord)
  deriving DecidableEq, Repr

/-- What the model gives no meaning. -/
inductive Refusal where
  /-- Raised by an arm of `exec` whose instruction has no meaning yet; no arm is. Safe. -/
  | notModelled (mnemonic : String)
  /-- Raised by the host command `run` while RUNNING, never by an instruction: "refused: the model gives it
  no meaning" (70_reset_and_hazards.md R127). Safe. -/
  | runWhileRunning
  deriving DecidableEq, Repr

/-- The machine state (10_state.md R32), and the model's own count of free values taken. -/
structure State where
  /-- `V[0]`..`V[15]`, `V[15]` being also the flag register (R13, R15) -/
  v : Vector Byte 16
  /-- `I`, the address register (R18) -/
  i : Word
  /-- `PC` (R19) -/
  pc : Word
  /-- `stack[0]`..`stack[15]` (R22) -/
  stack : Vector Word Config.stackDepth
  /-- `SP`, the number of entries pushed, 0 to 16 inclusive (R23) -/
  sp : Fin (Config.stackDepth + 1)
  /-- `mem` (R25) -/
  mem : Memory
  /-- `fb` (R26) -/
  fb : Framebuffer
  /-- `lifecycle` (R27) -/
  lifecycle : Lifecycle
  /-- `running` (R28) -/
  running : Bool
  /-- `IR`, the word most recently fetched (R29) -/
  ir : Word
  /-- `programLength` (R30) -/
  programLength : Nat
  /-- `fault` (R31) -/
  fault : FaultRecord
  /-- the model's own: how many free values have been taken (log 1) -/
  draws : Nat
  deriving DecidableEq, Repr

/-- The state after reset, and at construction (R32, 70_reset_and_hazards.md R118, R120). -/
def State.reset : State where
  v := Vector.replicate 16 0
  i := 0
  pc := BitVec.ofNat 16 Config.origin
  stack := Vector.replicate 16 0
  sp := 0
  mem := []
  fb := Vector.replicate 64 (Vector.replicate 32 false)
  lifecycle := .idle
  running := false
  ir := 0
  programLength := 0
  fault := .none
  draws := 0

end Sys2Proof.Machine
end

