-- ==== Sys2Proof/Machine/Ops.lean ====
section
/-!
DEFINITION. The named operations over memory, registers, the return stack and the framebuffer; the
fetch; raising a core fault, and the reset that leads out of it.
-/

namespace Sys2Proof.Machine

/-! ### Memory (spec/20_memory.md) -/

/-- `mem[a]`. Every caller has checked `a < MEM_SIZE` (00_scope.md R8, 20_memory.md R42); an unlisted
address reads 0 (R39). -/
def Memory.readByte : Memory → Nat → Byte
  | [], _ => 0
  | cell :: rest, a => if cell.1 = a then cell.2 else Memory.readByte rest a

/-- Put `b` at the head of the cells after address `a`, unless it is the 0 an unlisted address reads. -/
def Memory.consCell (a : Nat) (b : Byte) (rest : Memory) : Memory :=
  if b = 0 then rest else (a, b) :: rest

/-- Replace the byte at `a`, keeping the canonical form. -/
def Memory.putByte (a : Nat) (b : Byte) : Memory → Memory
  | [] => Memory.consCell a b []
  | cell :: rest =>
    if cell.1 < a then cell :: Memory.putByte a b rest
    else if cell.1 = a then Memory.consCell a b rest
    else Memory.consCell a b (cell :: rest)

/-- `MemWrite(a, 1, b)` (00_scope.md R8). There is no cell at or above `MEM_SIZE` (20_memory.md R36). -/
def Memory.writeByte (m : Memory) (a : Nat) (b : Byte) : Memory :=
  if a < Config.memSize then Memory.putByte a b m else m

/-- The byte sequence at `a`, `a + 1`, ... (70_reset_and_hazards.md R122: byte j goes to `origin + j`). -/
def Memory.writeBytes (m : Memory) (a : Nat) : List Byte → Memory
  | [] => m
  | b :: rest => Memory.writeBytes (Memory.writeByte m a b) (a + 1) rest

/-- `MemRead(a, 2)`: big-endian (00_scope.md R8, 20_memory.md R44). -/
def Memory.readWord (m : Memory) (a : Nat) : Word :=
  wordOfBytes (m.readByte a) (m.readByte (a + 1))

/-! ### Registers (spec/10_state.md) -/

/-- The index of `VF`, the flag register (00_scope.md R10, R12). -/
def vf : RegIdx := 0xF

/-- `V[x]`: every index is in range (R13). -/
def State.readV (s : State) (x : RegIdx) : Byte := s.v[x.toNat]'x.isLt

/-- `V[x] <- b`. No register is hard-wired (R13). -/
def State.writeV (s : State) (x : RegIdx) (b : Byte) : State :=
  { s with v := s.v.set x.toNat b x.isLt }

/-- `V[x] <- result`, then `V[0xF] <- flag`: the flag is written last (R17). -/
def State.writeVThenFlag (s : State) (x : RegIdx) (result flag : Byte) : State :=
  (s.writeV x result).writeV vf flag

/-- `I <- a` (R18). -/
def State.setI (s : State) (a : Word) : State := { s with i := a }

/-- `PC <- target` (R19). -/
def State.setPc (s : State) (target : Word) : State := { s with pc := target }

/-- The default advance: `PC <- (PC + 2) mod 2^16` (R19, R21). -/
def State.advance (s : State) : State := s.setPc (s.pc + 2)

/-- A skip: `PC <- (PC + 4) mod 2^16` when the condition holds, else the default advance (R19). -/
def State.skipIf (s : State) (c : Bool) : State := if c then s.setPc (s.pc + 4) else s.advance

/-- `stack[SP] <- ret`, `SP <- SP + 1`; `SP` is below the capacity (R22, R23). -/
def State.pushReturn (s : State) (h : s.sp.val < Config.stackDepth) (ret : Word) : State :=
  { s with
    stack := s.stack.set s.sp.val ret h
    sp := ⟨s.sp.val + 1, by omega⟩ }

/-- `fb <- f`. -/
def State.setFb (s : State) (f : Framebuffer) : State := { s with fb := f }

/-! ### Framebuffer (spec/44_draw.md R89) -/

/-- `fb[px][py]`. -/
def Framebuffer.pixel (f : Framebuffer) (px : Fin 64) (py : Fin 32) : Bool :=
  (f[px.val]'px.isLt)[py.val]'py.isLt

/-- `fb[px][py] <- fb[px][py] ^ 1`. -/
def Framebuffer.toggle (f : Framebuffer) (px : Fin 64) (py : Fin 32) : Framebuffer :=
  f.set px.val ((f[px.val]'px.isLt).set py.val (!f.pixel px py) py.isLt) px.isLt

/-- `fb[px][py]` of a state. -/
def State.pixel (s : State) (px : Fin 64) (py : Fin 32) : Bool := s.fb.pixel px py

/-! ### Free values -/

/-- `draw8()`: a byte under no law, "chosen anew at each use" (00_scope.md R9), and the state with the use
counted. -/
def State.draw8 (s : State) : Byte × State :=
  (Config.drawByte s.draws, { s with draws := s.draws + 1 })

/-! ### Fetch (spec/30_encoding.md R55) -/

/-- Both bytes of the word at `PC` lie in memory: `PC + 1 <= 0xFFF`, `PC` as an unsigned number (R55). -/
def State.canFetch (s : State) : Bool := decide (s.pc.toNat + 1 < Config.memSize)

/-- The word at `PC`, at any alignment (R55, 20_memory.md R45, R46). -/
def State.fetchWord (s : State) : Word := s.mem.readWord s.pc.toNat

/-- `IR <- w`, before dispatch (R55, 10_state.md R29). -/
def State.latchIr (s : State) (w : Word) : State := { s with ir := w }

/-! ### Raising a core fault, and leaving it (spec/60_exceptions.md) -/

/-- `raise`: the one way a core fault is taken (00_scope.md R9, 60_exceptions.md R98). It is given the state
before any write of the instruction. The record and `lifecycle` are written, `PC` stays; no handler
exists (R104). `running` becomes a free value (R99, 10_state.md R28; log 2). -/
def State.raise (s : State) (record : FaultRecord) : State :=
  { s with
    fault := record
    lifecycle := .faulted
    running := Config.runningAfterFault s.draws
    draws := s.draws + 1 }

/-- `reset()`: there is no trap return; this is the way out of FAULTED (60_exceptions.md R105). Every element
of the spec's state takes its reset value (70_reset_and_hazards.md R118). The model's own count of free
values goes on, so that the draws after a reset are new ones (log 1). -/
def State.hostReset (s : State) : State := { State.reset with draws := s.draws }

/-- The code of a cause (60_exceptions.md R97). -/
def FaultRecord.code : FaultRecord → Nat
  | .none => 0
  | .stackOverflow _ => 1
  | .fetchOutOfBounds _ => 2
  | .readOutOfBounds _ _ => 3

end Sys2Proof.Machine
end

