-- ==== Sys2Proof/Machine/Operands.lean ====
section
/-!
DEFINITION. The operand forms: zero-extended addresses, the shift's source, sprite bits and pixel
coordinates.
-/

namespace Sys2Proof.Machine

/-- `zext_16(nnn)`: what a 12-bit address field becomes in `PC` or `I` (30_encoding.md R59). -/
def zextAddr (nnn : Addr) : Word := BitVec.setWidth 16 nnn

/-- `zext_16(V[0])` in the offset jump (40_control_flow.md R72). -/
def zextByte (b : Byte) : Word := BitVec.setWidth 16 b

/-- The target of BNNN: the sum is not masked to 12 bits (40_control_flow.md R72; log 9). -/
def offsetTarget (nnn : Addr) (base : Byte) : Word := zextAddr nnn + zextByte base

/-- `SHR_SOURCE`, "the value this hardware takes" (00_scope.md R5, 42_alu.md R82; log 6). -/
def shrSource : Config.ShrSource := .x

/-- The source of 8XY6 for a value of the parameter (42_alu.md R82). -/
def State.shiftOperand (s : State) (source : Config.ShrSource) (x y : RegIdx) : Byte :=
  match source with
  | .x => s.readV x
  | .y => s.readV y

/-- Row byte `b`, column `col` of 0..7: bit 7 is the leftmost pixel (44_draw.md R87, R89). -/
def spriteBit (b : Byte) (col : Nat) : Bool := b.getLsbD (7 - col)

/-- `px = (vx + col) mod 64` (44_draw.md R87). -/
def pixelX (vx : Byte) (col : Nat) : Fin 64 :=
  ⟨(vx.toNat + col) % Config.fbWidth, Nat.mod_lt _ (by decide)⟩

/-- `py = (vy + row) mod 32` (44_draw.md R87). -/
def pixelY (vy : Byte) (row : Nat) : Fin 32 :=
  ⟨(vy.toNat + row) % Config.fbHeight, Nat.mod_lt _ (by decide)⟩

/-- Every row address `base + row`, `row < n`, lies in memory: the check of DXYN, not made of `n = 0`
(44_draw.md R87, 20_memory.md R42). -/
def spriteInBounds (base : Word) (n : Nibble) : Bool :=
  decide (n.toNat = 0 ∨ base.toNat + n.toNat - 1 < Config.memSize)

end Sys2Proof.Machine
end

