-- ==== Sys2Proof/Machine/Flags.lean ====
section
/-!
DEFINITION. The flag computations (spec/10_state.md R16, spec/42_alu.md R84). A flag is a byte written into
`VF`; no other flag exists (R15).
-/

namespace Sys2Proof.Machine

/-- `bool(c)`: 1 if `c` holds, else 0 (00_scope.md R6). -/
def flagByte (c : Bool) : Byte := if c then 1 else 0

/-- The carry of 8XY4: 1 if the exact sum exceeds 255 (42_alu.md R80). -/
def carryFlag (a b : Byte) : Byte := flagByte (decide (a.toNat + b.toNat > 255))

/-- The flag of 8XY5: 1 means NO borrow; 0 if the subtrahend exceeds the minuend (42_alu.md R81). -/
def noBorrowFlag (a b : Byte) : Byte := flagByte (!decide (b.toNat > a.toNat))

/-- The flag of 8XY6: bit 0 of the source before the shift (42_alu.md R82). -/
def shiftedOutFlag (a : Byte) : Byte := a &&& 1

end Sys2Proof.Machine
end

