-- ==== Sys2Proof/Machine/AddressRandom.lean ====
section
/-!
DEFINITION. Address register load and random byte (spec/43_address_random.md).
-/

namespace Sys2Proof.Machine

/-- LD I, nnn (R85): the only writer of `I`. -/
def execLdI (nnn : Addr) (s : State) : Host.Outcome State Fault Refusal :=
  .next (s.setI (zextAddr nnn)).advance

/-- RND Vx, nn (R86): a free draw, masked. -/
def execRnd (x : RegIdx) (nn : Byte) (s : State) : Host.Outcome State Fault Refusal :=
  let drawn := s.draw8
  .next (drawn.2.writeV x (drawn.1 &&& nn)).advance

end Sys2Proof.Machine
end

