-- ==== Sys2Proof/Machine/Alu.lean ====
section
/-!
DEFINITION. Register-register arithmetic and logic, family 8 (spec/42_alu.md). Every operand is read before
the first write, and a flag is written after the destination (10_state.md R17).
-/

namespace Sys2Proof.Machine

/-- LD Vx, Vy (R76). -/
def execLdReg (x y : RegIdx) (s : State) : Host.Outcome State Fault Refusal :=
  .next (s.writeV x (s.readV y)).advance

/-- OR Vx, Vy (R77). -/
def execOrReg (x y : RegIdx) (s : State) : Host.Outcome State Fault Refusal :=
  .next (s.writeV x (s.readV x ||| s.readV y)).advance

/-- AND Vx, Vy (R78). -/
def execAndReg (x y : RegIdx) (s : State) : Host.Outcome State Fault Refusal :=
  .next (s.writeV x (s.readV x &&& s.readV y)).advance

/-- XOR Vx, Vy (R79). -/
def execXorReg (x y : RegIdx) (s : State) : Host.Outcome State Fault Refusal :=
  .next (s.writeV x (s.readV x ^^^ s.readV y)).advance

/-- ADD Vx, Vy (R80): the sum modulo 256, then the carry. -/
def execAddReg (x y : RegIdx) (s : State) : Host.Outcome State Fault Refusal :=
  let a := s.readV x
  let b := s.readV y
  .next (s.writeVThenFlag x (a + b) (carryFlag a b)).advance

/-- SUB Vx, Vy (R81): the minuend is `Vx` (log 8), the difference modulo 256, then NOT borrow. -/
def execSub (x y : RegIdx) (s : State) : Host.Outcome State Fault Refusal :=
  let a := s.readV x
  let b := s.readV y
  .next (s.writeVThenFlag x (a - b) (noBorrowFlag a b)).advance

/-- 8XY6 for either value of the parameter `SHR_SOURCE` (R82, 92_eei_decisions.md D6). -/
def execShrFrom (source : Config.ShrSource) (x y : RegIdx) (s : State) :
    Host.Outcome State Fault Refusal :=
  let a := s.shiftOperand source x y
  .next (s.writeVThenFlag x (a >>> 1) (shiftedOutFlag a)).advance

/-- SHR Vx, with the value of `SHR_SOURCE` this hardware takes (R82; log 6). -/
def execShr (x y : RegIdx) (s : State) : Host.Outcome State Fault Refusal :=
  execShrFrom shrSource x y s

end Sys2Proof.Machine
end

