-- ==== Sys2Proof/Machine/ControlFlow.lean ====
section
/-!
DEFINITION. Control transfer (spec/40_control_flow.md). Each meaning runs with `PC` at the instruction's own
address (00_scope.md R11).
-/

namespace Sys2Proof.Machine

/-- JP nnn (R67). Any target is legal. -/
def execJp (nnn : Addr) (s : State) : Host.Outcome State Fault Refusal :=
  .next (s.setPc (zextAddr nnn))

/-- CALL nnn (R68): the CALL's own address is pushed (log 11); the 17th call faults. -/
def execCall (nnn : Addr) (s : State) : Host.Outcome State Fault Refusal :=
  if h : s.sp.val < Config.stackDepth then
    .next ((s.pushReturn h s.pc).setPc (zextAddr nnn))
  else
    .next (s.raise (.stackOverflow s.pc))

/-- SE Vx, nn (R69). -/
def execSeImm (x : RegIdx) (nn : Byte) (s : State) : Host.Outcome State Fault Refusal :=
  .next (s.skipIf (s.readV x == nn))

/-- SNE Vx, nn (R70). -/
def execSneImm (x : RegIdx) (nn : Byte) (s : State) : Host.Outcome State Fault Refusal :=
  .next (s.skipIf (s.readV x != nn))

/-- SE Vx, Vy (R71): all 16 values of the low nibble select it. -/
def execSeReg (x y : RegIdx) (s : State) : Host.Outcome State Fault Refusal :=
  .next (s.skipIf (s.readV x == s.readV y))

/-- JP V0, nnn (R72). -/
def execJpV0 (nnn : Addr) (s : State) : Host.Outcome State Fault Refusal :=
  .next (s.setPc (offsetTarget nnn (s.readV 0)))

end Sys2Proof.Machine
end

