-- ==== Sys2Proof/Machine/Draw.lean ====
section
/-!
DEFINITION. Sprite draw (spec/44_draw.md).
-/

namespace Sys2Proof.Machine

/-- A framebuffer being drawn on, and whether a pixel has gone from set to unset so far. -/
abbrev Canvas := Framebuffer × Bool

/-- One 1 bit of the sprite: the collision is tested before the XOR (R87, R88). -/
def plotPixel (c : Canvas) (px : Fin 64) (py : Fin 32) : Canvas :=
  (c.1.toggle px py, c.2 || c.1.pixel px py)

/-- One row byte: columns 0 to 7 of row `py`; a 0 bit leaves its pixel unchanged (R87). -/
def drawRow (b : Byte) (vx : Byte) (py : Fin 32) (c : Canvas) : Canvas :=
  (List.range 8).foldl
    (fun c col => if spriteBit b col then plotPixel c (pixelX vx col) py else c) c

/-- The rows 0 to `n - 1` of the sprite at `base`, position wrapped on both axes (R87). -/
def drawSprite (m : Memory) (base : Nat) (vx vy : Byte) (n : Nat) (f : Framebuffer) : Canvas :=
  (List.range n).foldl
    (fun c row => drawRow (m.readByte (base + row)) vx (pixelY vy row) c) (f, false)

/-- DRW Vx, Vy, n (R87): the bound is checked before any write (log 15 on the recorded `addr`); `VF` is
written last, on every execution. -/
def execDrw (x y : RegIdx) (n : Nibble) (s : State) : Host.Outcome State Fault Refusal :=
  if spriteInBounds s.i n then
    let c := drawSprite s.mem s.i.toNat (s.readV x) (s.readV y) n.toNat s.fb
    .next ((s.setFb c.1).writeV vf (flagByte c.2)).advance
  else
    .next (s.raise (.readOutOfBounds s.pc (BitVec.ofNat 16 Config.memSize)))

end Sys2Proof.Machine
end

