-- ==== Sys2Proof/Machine/Immediate.lean ====
section
/-!
DEFINITION. Immediate load and add (spec/41_immediate.md).
-/

namespace Sys2Proof.Machine

/-- LD Vx, nn (R74). -/
def execLdImm (x : RegIdx) (nn : Byte) (s : State) : Host.Outcome State Fault Refusal :=
  .next (s.writeV x nn).advance

/-- ADD Vx, nn (R75): modulo 256, and no flag is written. -/
def execAddImm (x : RegIdx) (nn : Byte) (s : State) : Host.Outcome State Fault Refusal :=
  .next (s.writeV x (s.readV x + nn)).advance

end Sys2Proof.Machine
end

