-- ==== Sys2Proof/Machine/NoOp.lean ====
section
/-!
DEFINITION. The no-op handler and the unassigned encodings (spec/45_unassigned.md). Each row has a meaning of
its own over the one handler.
-/

namespace Sys2Proof.Machine

/-- `NOP()`: "only advances the counter by 2"; it must not signal an error (R95). -/
def nopHandler (s : State) : Host.Outcome State Fault Refusal := .next s.advance

/-- 0NNN (R90). -/
def execNop0 (s : State) : Host.Outcome State Fault Refusal := nopHandler s

/-- 9XYN (R91). -/
def execNop9 (s : State) : Host.Outcome State Fault Refusal := nopHandler s

/-- EXNN (R92). -/
def execNopE (s : State) : Host.Outcome State Fault Refusal := nopHandler s

/-- FXNN (R93). -/
def execNopF (s : State) : Host.Outcome State Fault Refusal := nopHandler s

/-- 8XY7 (R94). -/
def execNop87 (s : State) : Host.Outcome State Fault Refusal := nopHandler s

/-- 8XY8 (R94). -/
def execNop88 (s : State) : Host.Outcome State Fault Refusal := nopHandler s

/-- 8XY9 (R94). -/
def execNop89 (s : State) : Host.Outcome State Fault Refusal := nopHandler s

/-- 8XYA (R94). -/
def execNop8A (s : State) : Host.Outcome State Fault Refusal := nopHandler s

/-- 8XYB (R94). -/
def execNop8B (s : State) : Host.Outcome State Fault Refusal := nopHandler s

/-- 8XYC (R94). -/
def execNop8C (s : State) : Host.Outcome State Fault Refusal := nopHandler s

/-- 8XYD (R94). -/
def execNop8D (s : State) : Host.Outcome State Fault Refusal := nopHandler s

/-- 8XYE (R94). -/
def execNop8E (s : State) : Host.Outcome State Fault Refusal := nopHandler s

/-- 8XYF (R94). -/
def execNop8F (s : State) : Host.Outcome State Fault Refusal := nopHandler s

end Sys2Proof.Machine
end

