-- ==== Sys2Proof/Machine/Dispatch.lean ====
section
/-!
DEFINITION. The dispatch: one arm per constructor of `Instr` (spec/30_encoding.md R63).
-/

namespace Sys2Proof.Machine

/-- `Execute(w)` for the instruction a word decodes to (00_scope.md R11). -/
def exec (i : Instr) (s : State) : Host.Outcome State Fault Refusal :=
  match i with
  | .jp nnn => Sys2Proof.Machine.execJp nnn s
  | .call nnn => Sys2Proof.Machine.execCall nnn s
  | .seImm x nn => Sys2Proof.Machine.execSeImm x nn s
  | .sneImm x nn => Sys2Proof.Machine.execSneImm x nn s
  | .seReg x y _ => Sys2Proof.Machine.execSeReg x y s
  | .ldImm x nn => Sys2Proof.Machine.execLdImm x nn s
  | .addImm x nn => Sys2Proof.Machine.execAddImm x nn s
  | .ldReg x y => Sys2Proof.Machine.execLdReg x y s
  | .orReg x y => Sys2Proof.Machine.execOrReg x y s
  | .andReg x y => Sys2Proof.Machine.execAndReg x y s
  | .xorReg x y => Sys2Proof.Machine.execXorReg x y s
  | .addReg x y => Sys2Proof.Machine.execAddReg x y s
  | .sub x y => Sys2Proof.Machine.execSub x y s
  | .shr x y => Sys2Proof.Machine.execShr x y s
  | .nop87 _ _ => Sys2Proof.Machine.execNop87 s
  | .nop88 _ _ => Sys2Proof.Machine.execNop88 s
  | .nop89 _ _ => Sys2Proof.Machine.execNop89 s
  | .nop8A _ _ => Sys2Proof.Machine.execNop8A s
  | .nop8B _ _ => Sys2Proof.Machine.execNop8B s
  | .nop8C _ _ => Sys2Proof.Machine.execNop8C s
  | .nop8D _ _ => Sys2Proof.Machine.execNop8D s
  | .nop8E _ _ => Sys2Proof.Machine.execNop8E s
  | .nop8F _ _ => Sys2Proof.Machine.execNop8F s
  | .ldI nnn => Sys2Proof.Machine.execLdI nnn s
  | .jpV0 nnn => Sys2Proof.Machine.execJpV0 nnn s
  | .rnd x nn => Sys2Proof.Machine.execRnd x nn s
  | .drw x y n => Sys2Proof.Machine.execDrw x y n s
  | .nop0 _ => Sys2Proof.Machine.execNop0 s
  | .nop9 _ _ _ => Sys2Proof.Machine.execNop9 s
  | .nopE _ _ => Sys2Proof.Machine.execNopE s
  | .nopF _ _ => Sys2Proof.Machine.execNopF s

end Sys2Proof.Machine
end

