-- ==== Sys2Proof/Machine/Cycle.lean ====
section
/-!
DEFINITION. The fetch-decode-dispatch cycle (spec/30_encoding.md R55), and the parameter `SHR_SOURCE` as an
argument of the model (spec/00_scope.md R5).
-/

namespace Sys2Proof.Machine

/-- What takes a state to the outcome of one step. -/
abbrev Stepper := State → Host.Outcome State Fault Refusal

/-- One fetch-decode-dispatch cycle (R55) over a meaning `execute` of the instructions. The order of the checks
is that of 60_exceptions.md R103: FAULTED, then the fetch bound, then the instruction's own fault. It does not
consult `running` and does not test the halting condition (10_state.md R28, 70_reset_and_hazards.md R126). -/
def cycle (execute : Instr → Stepper) (s : State) : Host.Outcome State Fault Refusal :=
  if s.lifecycle = .faulted then .fault (.stuck s.fault)
  else if s.canFetch then execute (decodeWord s.fetchWord) (s.latchIr s.fetchWord)
  else .next (s.raise (.fetchOutOfBounds s.pc))

/-- `Execute(w)` with `SHR_SOURCE` as an argument: "A model takes `SHR_SOURCE` as an argument" (00_scope.md R5,
92_eei_decisions.md D6; log 6). SHR is the one instruction that reads it (42_alu.md R82); every other is `exec`. -/
def execWith (source : Config.ShrSource) (i : Instr) (s : State) : Host.Outcome State Fault Refusal :=
  match i with
  | .shr x y => execShrFrom source x y s
  | _ => exec i s

/-- `Step()` with `SHR_SOURCE` as an argument (R5, R55). -/
def stepWith (source : Config.ShrSource) : Stepper := cycle (execWith source)

/-- The core with `SHR_SOURCE` as an argument, to run the model for either value (R5). -/
def coreWith (source : Config.ShrSource) : Host.Core :=
  { State := State, Fault := Fault, Refusal := Refusal, step := stepWith source, reset := State.reset }

end Sys2Proof.Machine
end

