-- ==== Sys2Proof/Machine/Step.lean ====
section
/-!
DEFINITION. One step of the core (spec/30_encoding.md R55).
-/

namespace Sys2Proof.Machine

/-- `Step()`: one fetch-decode-dispatch cycle (R55), with the value of `SHR_SOURCE` this hardware takes. -/
def step (s : State) : Host.Outcome State Fault Refusal := cycle exec s

/-- The state with an instruction word stored where `step` fetches: at `PC`, the high byte first, the bits at
and above `nbits` zero (log 5). Where no fetch can happen (`PC >= 0xFFF`, or FAULTED) the next step runs no
instruction, whatever is stored. -/
def State.withFetchWord (s : State) (nbits w : Nat) : State :=
  let word : Word := BitVec.ofNat 16 (w % 2 ^ nbits)
  { s with mem := s.mem.writeBytes s.pc.toNat [highByte word, lowByte word] }

end Sys2Proof.Machine
end

