-- ==== Sys2Proof/Machine/HostInterface.lean ====
section
/-!
DEFINITION. The host interface: reset, program load, run control, the accessors and the ports
(spec/60_exceptions.md section 6, spec/70_reset_and_hazards.md). No instruction reaches it (R106).
-/

namespace Sys2Proof.Machine

/-- What the core signals on its output ports (60_exceptions.md R109). -/
inductive PortEvent where
  /-- COMPLETE_OUT: the completion callback, no argument (70_reset_and_hazards.md R125) -/
  | completeOut
  /-- FAULT_OUT: a core fault, with its cause and information (60_exceptions.md R99) -/
  | faultOut (record : FaultRecord)
  deriving DecidableEq, Repr

/-- An error returned to the host for bad arguments (60_exceptions.md R100). -/
inductive HostError where
  /-- REG_INDEX_OUT_OF_RANGE: the read-one-register accessor, index above 15 -/
  | regIndexOutOfRange
  /-- MEM_ADDRESS_OUT_OF_RANGE: the read-one-byte accessor, address above 0xFFF -/
  | memAddressOutOfRange
  /-- LOAD_OUT_OF_RANGE: `loadProgram`, and `run` through it, past the end of memory -/
  | loadOutOfRange
  deriving DecidableEq, Repr

/-- The code of a host error (R100). -/
def HostError.code : HostError → Nat
  | .regIndexOutOfRange => 0x81
  | .memAddressOutOfRange => 0x82
  | .loadOutOfRange => 0x83

/-- What a host command leaves: the state, what the ports signalled in order, the error returned if any,
and whether the run loop is to be invoked (again) at the next yield point (R125). -/
structure HostResult where
  state     : State
  events    : List PortEvent
  error     : Option HostError
  loopAgain : Bool
  deriving DecidableEq, Repr

/-- A host command is carried out, or the model gives it no meaning. -/
inductive HostReply where
  | done (result : HostResult)
  | refused (reason : Refusal)
  deriving DecidableEq, Repr

/-- The commands of `HOST_CTRL`, the scheduler's invocation of the run loop, and a change of `KEY_IN`
(60_exceptions.md R109, R114). -/
inductive HostCommand where
  | reset
  /-- the origin may be left out (R114) -/
  | loadProgram (bytes : List Byte) (origin : Option Nat)
  | run (bytes : List Byte)
  | step
  | invokeLoop
  | keyIn (keys : BitVec 16)
  deriving DecidableEq, Repr

/-- The command leaves this state and signals nothing. -/
def HostResult.quiet (s : State) : HostResult :=
  { state := s, events := [], error := none, loopAgain := false }

/-- Where a load goes: "an optional origin, default 0x200" (60_exceptions.md R114). -/
def loadOrigin (origin : Option Nat) : Nat := origin.getD Config.origin

/-- `loadProgram(bytes, origin)` (70_reset_and_hazards.md R122): memory and `programLength` only; refused with
a host error, and nothing changed, when it would pass the end of memory. -/
def loadProgram (p : ProgramImage) (s : State) : HostResult :=
  if p.wellFormed then
    .quiet { s with mem := s.mem.writeBytes p.origin p.bytes, programLength := p.bytes.length }
  else
    { state := s, events := [], error := some .loadOutOfRange, loopAgain := false }

/-- `lifecycle <- RUNNING`, `running = 1` (R124). -/
def State.startRunning (s : State) : State := { s with lifecycle := .running, running := true }

/-- `lifecycle <- HALTED`, `running <- 0` (R125). -/
def State.halt (s : State) : State := { s with lifecycle := .halted, running := false }

/-- `run(bytes, onComplete)`: reset, load at the default origin, RUNNING (R124). After a failed load the core
stays in the reset state. A run during RUNNING is refused (R127). -/
def hostRun (bytes : List Byte) (s : State) : HostReply :=
  if s.lifecycle = .running then .refused .runWhileRunning
  else
    let loaded := loadProgram ⟨bytes, Config.origin⟩ s.hostReset
    match loaded.error with
    | some _ => .done loaded
    | none => .done
        { state := loaded.state.startRunning, events := [], error := none, loopAgain := true }

/-- What FAULT_OUT carries after a step that left `t` (60_exceptions.md R99). -/
def faultSignal (t : State) : List PortEvent :=
  if t.lifecycle = .faulted then [.faultOut t.fault] else []

/-- `step()` of a core whose step is `stepper`: one cycle in IDLE, RUNNING and HALTED; in FAULTED nothing
executes and the recorded fault is reported again (70_reset_and_hazards.md R127, R128, 60_exceptions.md R105). -/
def hostStep (stepper : Stepper) (s : State) : HostReply :=
  match stepper s with
  | .next t => .done { state := t, events := faultSignal t, error := none, loopAgain := false }
  | .fault (.stuck record) => .done
      { state := s, events := [.faultOut record], error := none, loopAgain := false }
  | .refused reason => .refused reason

/-- `PC >= MEM_SIZE`, the halting condition of the continuous run (R126). -/
def State.atHalt (s : State) : Bool := decide (Config.memSize ≤ s.pc.toNat)

/-- A loop invocation that finds the run ended by a reset: COMPLETE_OUT once or not at all, a free value
(70_reset_and_hazards.md R121; log 3). -/
def endedByReset (s : State) : HostResult :=
  { state := { s with draws := s.draws + 1 }
    events := if Config.completeAfterReset s.draws then [.completeOut] else []
    error := none
    loopAgain := false }

/-- `RunLoop()`, one invocation, of a core whose step is `stepper` (R125). -/
def runLoop (stepper : Stepper) (s : State) : HostReply :=
  match s.lifecycle with
  | .faulted => .done (.quiet s)
  | .idle => .done (endedByReset s)
  | .halted => .done (endedByReset s)
  | .running =>
    if s.atHalt then .done
      { state := s.halt, events := [.completeOut], error := none, loopAgain := false }
    else
      match hostStep stepper s with
      | .done r => .done
          { state := r.state, events := r.events, error := r.error, loopAgain := true }
      | .refused reason => .refused reason

/-- A host command at a yield point, atomic with respect to the core (60_exceptions.md R113), to a core whose
step is `stepper`. A change of `KEY_IN` affects no state (R112). -/
def hostActionBy (stepper : Stepper) : HostCommand → State → HostReply
  | .reset, s => .done (.quiet s.hostReset)
  | .loadProgram bytes origin, s => .done (loadProgram ⟨bytes, loadOrigin origin⟩ s)
  | .run bytes, s => hostRun bytes s
  | .step, s => hostStep stepper s
  | .invokeLoop, s => runLoop stepper s
  | .keyIn _, s => .done (.quiet s)

/-- A host command to this hardware. -/
def hostAction : HostCommand → State → HostReply := hostActionBy step

/-- A host command, with `SHR_SOURCE` as an argument (00_scope.md R5). -/
def hostActionWith (source : Config.ShrSource) : HostCommand → State → HostReply :=
  hostActionBy (stepWith source)

/-- The scheduler re-invoking the loop for as long as it asks, at most `fuel` times: the state reached and
what the ports signalled (R125, R129: nothing in the core bounds the number of steps). -/
def continuousRunBy (stepper : Stepper) : Nat → State → State × List PortEvent
  | 0, s => (s, [])
  | fuel + 1, s =>
    match runLoop stepper s with
    | .done r =>
      if r.loopAgain then
        let later := continuousRunBy stepper fuel r.state
        (later.1, r.events ++ later.2)
      else (r.state, r.events)
    | .refused _ => (s, [])

/-- The continuous run of this hardware. -/
def continuousRun : Nat → State → State × List PortEvent := continuousRunBy step

/-- The continuous run, with `SHR_SOURCE` as an argument (00_scope.md R5). -/
def continuousRunWith (source : Config.ShrSource) : Nat → State → State × List PortEvent :=
  continuousRunBy (stepWith source)

/-! ### `DBG_READ` accessors and `FB_OUT` (R110, R111): reads of the state that change nothing -/

/-- The current instruction word. -/
def dbgInstructionWord (s : State) : Word := s.ir

/-- The program counter. -/
def dbgPc (s : State) : Word := s.pc

/-- Full memory snapshot: all 4096 bytes (20_memory.md R54). -/
def dbgMemory (s : State) : Vector Byte Config.memSize :=
  Vector.ofFn fun a => s.mem.readByte a.val

/-- A specific memory byte (20_memory.md R54). -/
def dbgMemoryByte (s : State) (a : Nat) : Except HostError Byte :=
  if a < Config.memSize then .ok (s.mem.readByte a) else .error .memAddressOutOfRange

/-- The full stack and the stack pointer. -/
def dbgStack (s : State) : Vector Word Config.stackDepth × Nat := (s.stack, s.sp.val)

/-- A specific data register; an index above 15 is rejected. -/
def dbgRegister (s : State) (index : Nat) : Except HostError Byte :=
  if h : index < 16 then .ok (s.v[index]'h) else .error .regIndexOutOfRange

/-- All data registers as a value copy. -/
def dbgRegisters (s : State) : Vector Byte 16 := s.v

/-- The address register. -/
def dbgAddressRegister (s : State) : Word := s.i

/-- The running flag. -/
def dbgRunning (s : State) : Bool := s.running

/-- `FB_OUT`: the whole 64 x 32 grid (R111). -/
def fbOut (s : State) : Framebuffer := s.fb

end Sys2Proof.Machine
end

