-- ==== Sys2Proof/Safety.lean ====
section
/-!
DEFINITION. What claims about the machine are said in: the invariant, frames, a run without a fault, the
pixels a sprite sets, and which instructions do what.
-/

namespace Sys2Proof.Machine

/-! ### The invariant -/

/-- Memory keeps its canonical form: no cell outside 0x000..0xFFF (20_memory.md R36). -/
abbrev State.MemoryCanonical (s : State) : Prop := s.mem.wf = true

/-- "every value `I` can hold is at most 0xFFF" (10_state.md R18). -/
abbrev State.AddressInRange (s : State) : Prop := s.i.toNat ≤ 0xFFF

/-- "The largest `PC` any instruction can produce is 0x10FE" (10_state.md R21). -/
abbrev State.PcInRange (s : State) : Prop := s.pc.toNat ≤ 0x10FE

/-- `programLength` "takes values 0 to 4096" (10_state.md R30). -/
abbrev State.LengthInRange (s : State) : Prop := s.programLength ≤ Config.memSize

/-- "`stack[k]` for every `k >= SP` holds 0" (10_state.md R24). -/
abbrev State.StackClearAbove (s : State) : Prop :=
  ∀ k : Fin 16, s.sp.val ≤ k.val → s.stack[k.val] = 0

/-- "every pushed value is below 0x1000": CALL executes only at a `PC` at most 0xFFE
(92_eei_decisions.md D9). -/
abbrev State.StackHoldsCalls (s : State) : Prop :=
  ∀ k : Fin 16, k.val < s.sp.val → s.stack[k.val].toNat ≤ 0xFFE

/-- `running` "reads 1 exactly when `lifecycle = RUNNING`", but for FAULTED, where it is a draw
(10_state.md R28). -/
abbrev State.RunningAgrees (s : State) : Prop :=
  s.lifecycle ≠ .faulted → (s.running = true ↔ s.lifecycle = .running)

/-- The fault record "is `NONE` in every other lifecycle state" than FAULTED (10_state.md R31). -/
abbrev State.FaultRecordAgrees (s : State) : Prop := s.fault = .none ↔ s.lifecycle ≠ .faulted

/-- The invariant of the machine. -/
abbrev State.Inv (s : State) : Prop :=
  s.MemoryCanonical ∧ s.AddressInRange ∧ s.PcInRange ∧ s.LengthInRange ∧ s.StackClearAbove ∧
    s.StackHoldsCalls ∧ s.RunningAgrees ∧ s.FaultRecordAgrees

/-! ### Frames -/

/-- Every byte of memory reads as before. -/
def SameMemory (s t : State) : Prop := ∀ a : Nat, t.mem.readByte a = s.mem.readByte a

/-- Every pixel is as before. -/
def SameScreen (s t : State) : Prop := ∀ px py, t.pixel px py = s.pixel px py

/-- The return stack and `SP` are as before. -/
def SameStack (s t : State) : Prop :=
  t.sp = s.sp ∧ ∀ k : Fin 16, t.stack[k.val] = s.stack[k.val]

/-- Every data register outside `written` is as before. -/
def SameRegistersBut (written : RegIdx → Prop) (s t : State) : Prop :=
  ∀ r, ¬ written r → t.readV r = s.readV r

/-- `IR`, the lifecycle, `running`, `programLength` and the fault record are as before. -/
def SameBookkeeping (s t : State) : Prop :=
  t.ir = s.ir ∧ t.lifecycle = s.lifecycle ∧ t.running = s.running ∧
    t.programLength = s.programLength ∧ t.fault = s.fault

/-- Everything but the data registers and `PC` is as before (the count of free values too). -/
def RegisterFrame (s t : State) : Prop :=
  t.i = s.i ∧ SameStack s t ∧ SameMemory s t ∧ SameScreen s t ∧ SameBookkeeping s t ∧
    t.draws = s.draws

/-- Everything but `PC` is as before. -/
def PcFrame (s t : State) : Prop := SameRegistersBut (fun _ => False) s t ∧ RegisterFrame s t

/-- What a core fault leaves (60_exceptions.md R98, R104): nothing of V, I, `PC`, the stack, memory or the
framebuffer is written, `IR` and `programLength` stay, the record is written and the core is FAULTED.
`running` is not mentioned: it is a draw (10_state.md R28). -/
def FaultTaken (record : FaultRecord) (s t : State) : Prop :=
  SameRegistersBut (fun _ => False) s t ∧ t.i = s.i ∧ t.pc = s.pc ∧ SameStack s t ∧
    SameMemory s t ∧ SameScreen s t ∧ t.ir = s.ir ∧ t.programLength = s.programLength ∧
    t.fault = record ∧ t.lifecycle = .faulted

/-- Every element of the spec's state holds its reset value (10_state.md R32, 70_reset_and_hazards.md R118). -/
def ResetElements (t : State) : Prop :=
  (∀ r, t.readV r = 0) ∧ t.i = 0 ∧ t.pc = 0x200 ∧ (∀ k : Fin 16, t.stack[k.val] = 0) ∧
    t.sp.val = 0 ∧ (∀ a, t.mem.readByte a = 0) ∧ (∀ px py, t.pixel px py = false) ∧
    t.lifecycle = .idle ∧ t.running = false ∧ t.ir = 0 ∧ t.programLength = 0 ∧ t.fault = .none

/-! ### Sprites -/

/-- Pixel `(px, py)` is under a 1 bit of the `n`-row sprite at `I`, drawn at `(vx, vy)` with wrap-around on
both axes, bit 7 of a row byte leftmost (44_draw.md R87, R89). -/
def SpriteSets (s : State) (vx vy : Byte) (n : Nibble) (px : Fin 64) (py : Fin 32) : Prop :=
  ∃ row col : Nat, row < n.toNat ∧ col < 8 ∧ (vx.toNat + col) % 64 = px.val ∧
    (vy.toNat + row) % 32 = py.val ∧
    (s.mem.readByte (s.i.toNat + row)).getLsbD (7 - col) = true

end Sys2Proof.Machine

namespace Sys2Proof

/-! ### Instructions -/

/-- The unassigned encodings (30_encoding.md R65). -/
def Instr.IsNoOp (i : Instr) : Prop :=
  i.mnemonic ∈ [.nop0, .nop9, .nopE, .nopF, .nop87, .nop88, .nop89, .nop8A, .nop8B, .nop8C,
    .nop8D, .nop8E, .nop8F]

/-- The instructions that set `PC` to a target instead of advancing it (10_state.md R19). -/
def Instr.IsJump (i : Instr) : Prop := i.mnemonic ∈ [.jp, .call, .jpV0]

/-- The instructions that write `VF` as a flag (10_state.md R16). -/
def Instr.WritesFlag (i : Instr) : Prop := i.mnemonic ∈ [.addReg, .sub, .shr, .drw]

/-- The destination register a constructor names, where it has one (10_state.md R14). -/
def Instr.destination? : Instr → Option RegIdx
  | .ldImm x _ => some x
  | .addImm x _ => some x
  | .ldReg x _ => some x
  | .orReg x _ => some x
  | .andReg x _ => some x
  | .xorReg x _ => some x
  | .addReg x _ => some x
  | .sub x _ => some x
  | .shr x _ => some x
  | .rnd x _ => some x
  | .jp _ => none
  | .call _ => none
  | .seImm _ _ => none
  | .sneImm _ _ => none
  | .seReg _ _ _ => none
  | .nop87 _ _ => none
  | .nop88 _ _ => none
  | .nop89 _ _ => none
  | .nop8A _ _ => none
  | .nop8B _ _ => none
  | .nop8C _ _ => none
  | .nop8D _ _ => none
  | .nop8E _ _ => none
  | .nop8F _ _ => none
  | .ldI _ => none
  | .jpV0 _ => none
  | .drw _ _ _ => none
  | .nop0 _ => none
  | .nop9 _ _ _ => none
  | .nopE _ _ => none
  | .nopF _ _ => none

end Sys2Proof

namespace Sys2Proof.Machine

/-! ### Runs -/

/-- `k` steps end in `t`, and `t` is not FAULTED: a safe run, and a fault is never undone by a step. -/
def SafeRun (k : Nat) (s t : State) : Prop :=
  Sys2Proof.core.run k s = .next t ∧ t.lifecycle ≠ .faulted

/-- The instruction the next step executes, where it executes one. -/
def State.nextInstr? (s : State) : Option Instr :=
  if s.lifecycle ≠ .faulted ∧ s.canFetch then some (decodeWord s.fetchWord) else none

/-- How many of the next `k` steps execute a CALL. -/
def callsIn : Nat → State → Nat
  | 0, _ => 0
  | k + 1, s =>
    match s.nextInstr?, step s with
    | some (.call _), .next t => callsIn k t + 1
    | _, .next t => callsIn k t
    | _, _ => 0

end Sys2Proof.Machine
end

