-- ==== Sys2Proof/Certificates/Slice0/Obligations.lean ====
section
/-!
DEFINITION. The statements for the provers. Each docstring names the rule or the section of spec/ it rests on;
where a clause rests on one of the spec's own decisions (92_eei_decisions.md) or on a log entry, it says so.
-/

open Sys2Proof Sys2Proof.Machine

/-! ### Encoding -/

/-- Decoding an encoded instruction gives it back, every field at every value, and leaves the bytes after it
(30_encoding.md R56 to R58; the formats follow decisions D1 and D3, the kept don't-care bits log 19). -/
def Obligations.DecodeOfEncodeIsSame : Prop :=
  ∀ (i : Instr) (rest : List Byte), decode (encodeBytes i ++ rest) = .ok (i, rest)

/-- Every one of the 65536 words is the encoding of the instruction it decodes to: no bit of a word is dropped
(00_scope.md R2, 30_encoding.md R57; log 19). -/
def Obligations.EncodeOfDecodeIsSame : Prop :=
  ∀ w : Word, encode (decodeWord w) = w

/-- The rows of the opcode table are pairwise disjoint and cover every word, and the row that holds a word is the
row of the instruction it decodes to (30_encoding.md R63; the nibble values are decisions D1, D2, D4). -/
def Obligations.OpcodeRowsPartitionTheWords : Prop :=
  (∀ w : Word, ∃ r ∈ opcodeTable, r.holds w = true) ∧
  (∀ w : Word, ∀ r ∈ opcodeTable, r.holds w = true → r.mnemonic = (decodeWord w).mnemonic) ∧
  opcodeTable.Pairwise (fun r r' => ∀ w : Word, ¬ (r.holds w = true ∧ r'.holds w = true))

/-- The two dispatch tables: which handler each `op`, and in family 8 each `n`, selects, and with which fields of
the word (30_encoding.md R60, R61, R63; decisions D1 to D5). -/
def Obligations.DispatchFollowsTheTables : Prop :=
  ∀ (op x y n : Nibble), let nn : Byte := y ++ n; let nnn : Addr := x ++ (y ++ n : BitVec 8)
    let d := decodeWord (op ++ (x ++ (y ++ n : BitVec 8) : BitVec 12))
    (op = 0x0 → d = .nop0 nnn) ∧ (op = 0x1 → d = .jp nnn) ∧ (op = 0x2 → d = .call nnn) ∧
    (op = 0x3 → d = .seImm x nn) ∧ (op = 0x4 → d = .sneImm x nn) ∧ (op = 0x5 → d = .seReg x y n) ∧
    (op = 0x6 → d = .ldImm x nn) ∧ (op = 0x7 → d = .addImm x nn) ∧
    (op = 0x8 → n = 0x0 → d = .ldReg x y) ∧ (op = 0x8 → n = 0x1 → d = .orReg x y) ∧
    (op = 0x8 → n = 0x2 → d = .andReg x y) ∧ (op = 0x8 → n = 0x3 → d = .xorReg x y) ∧
    (op = 0x8 → n = 0x4 → d = .addReg x y) ∧ (op = 0x8 → n = 0x5 → d = .sub x y) ∧
    (op = 0x8 → n = 0x6 → d = .shr x y) ∧ (op = 0x8 → 0x7 ≤ n.toNat → d.IsNoOp) ∧
    (op = 0x9 → d = .nop9 x y n) ∧ (op = 0xA → d = .ldI nnn) ∧ (op = 0xB → d = .jpV0 nnn) ∧
    (op = 0xC → d = .rnd x nn) ∧ (op = 0xD → d = .drw x y n) ∧ (op = 0xE → d = .nopE x nn) ∧
    (op = 0xF → d = .nopF x nn)

/-- The no-op space is exactly 0NNN, 9XYN, EXNN, FXNN and 8XY7 to 8XYF (30_encoding.md R65; decision D4). -/
def Obligations.NoOpSpaceIsExactly : Prop :=
  ∀ w : Word, (decodeWord w).IsNoOp ↔
    fieldOp w ∈ [0x0, 0x9, 0xE, 0xF] ∨ (fieldOp w = 0x8 ∧ 7 ≤ (fieldN w).toNat)

/-- A few words of 95_test_vectors.md decode to the instructions they stand for. The nibble values, the places of `x`
and `y` and the no-ops they show are the spec's own choices D1 to D4, from general knowledge of CHIP-8 (log 7). -/
def Obligations.SpecWordsDecode : Prop :=
  decodeWord 0x1234 = .jp 0x234 ∧ decodeWord 0x3309 = .seImm 0x3 0x09 ∧
  decodeWord 0x6003 = .ldImm 0x0 0x03 ∧ decodeWord 0x7009 = .addImm 0x0 0x09 ∧
  decodeWord 0x8AB4 = .addReg 0xA 0xB ∧ decodeWord 0x801E = .nop8E 0x0 0x1 ∧
  decodeWord 0xA20C = .ldI 0x20C ∧ decodeWord 0xD012 = .drw 0x0 0x1 0x2 ∧
  decodeWord 0x00EE = .nop0 0x0EE

/-! ### Reset -/

/-- `reset()`, in every state, leaves every element of the state at its reset value (70_reset_and_hazards.md R118). That
the reset itself signals nothing, in RUNNING too, is the model's reading of R125 with decision D23: a completion after a
reset in mid-run belongs to the loop's next invocation (log 3, log 17). -/
def Obligations.ResetLeavesEveryElement : Prop :=
  ∀ s : State, ∃ t, hostAction .reset s = .done (.quiet t) ∧ ResetElements t

/-- At construction the state is the reset state, `PC = 0x200` included: the spec's decision D16
(70_reset_and_hazards.md R120). -/
def Obligations.PowerOnIsTheResetState : Prop := ResetElements Sys2Proof.core.reset

/-- Reset may be called in every state, leads to IDLE, and a second one changes nothing more; it is the only way from
HALTED or FAULTED back to IDLE (70_reset_and_hazards.md R119), but that a `run`, which begins with a reset, stays in IDLE
when its load fails (R124, R127 with decision D21; log 17). FAULTED is decision D18. -/
def Obligations.ResetIsIdempotentAndOnlyWayToIdle : Prop :=
  (∀ s : State, ∃ t, hostAction .reset s = .done (.quiet t) ∧ t.lifecycle = .idle ∧
    hostAction .reset t = .done (.quiet t)) ∧
  ∀ (s : State) (c : HostCommand) (r : HostResult),
    s.lifecycle = .halted ∨ s.lifecycle = .faulted → hostAction c s = .done r →
    r.state.lifecycle = .idle →
    c = .reset ∨ ∃ bytes, c = .run bytes ∧ r.error = some .loadOutOfRange

/-! ### The step -/

/-- When the two bytes at `PC` decode to `i`, the step is `i` executed with `IR` holding the word, and nothing
else is added (30_encoding.md R55; decisions D11, D32). -/
def Obligations.StepRunsTheFetchedInstruction : Prop :=
  ∀ (s : State) (i : Instr), s.lifecycle ≠ .faulted → s.pc.toNat + 1 ≤ 0xFFF →
    decode [s.mem.readByte s.pc.toNat, s.mem.readByte (s.pc.toNat + 1)] = .ok (i, []) →
    step s = exec i { s with
      ir := s.mem.readByte s.pc.toNat ++ s.mem.readByte (s.pc.toNat + 1) }

/-- A word placed where the step fetches is the instruction the very next step runs, and the decoder reads the
same instruction from it (the model's own interface, log 5). -/
def Obligations.PlacedWordIsRunNext : Prop :=
  ∀ (s : State) (w : Word), s.mem.wf = true → s.lifecycle ≠ .faulted → s.pc.toNat + 1 ≤ 0xFFF →
    decodeTableWord 16 w.toNat = some (decodeWord w) ∧
    step (s.withFetchWord 16 w.toNat) =
      exec (decodeWord w) { s.withFetchWord 16 w.toNat with ir := w } ∧
    SameRegistersBut (fun _ => False) s (s.withFetchWord 16 w.toNat) ∧
    ∀ a, a ≠ s.pc.toNat → a ≠ s.pc.toNat + 1 →
      (s.withFetchWord 16 w.toNat).mem.readByte a = s.mem.readByte a

/-- A fetch that would read past 0xFFF takes FETCH_OUT_OF_BOUNDS, `IR` and all else unchanged: decision D11
(60_exceptions.md R97, R98). -/
def Obligations.FetchPastMemoryFaults : Prop :=
  ∀ s : State, s.lifecycle ≠ .faulted → 0xFFF ≤ s.pc.toNat →
    ∃ t, step s = .next t ∧ FaultTaken (.fetchOutOfBounds s.pc) s t

/-- In FAULTED no step is taken; the host's `step()` changes nothing and reports the recorded fault again:
decision D19 (60_exceptions.md R98, R105). -/
def Obligations.FaultedCoreIsStuck : Prop :=
  ∀ s : State, s.lifecycle = .faulted → step s = .fault (.stuck s.fault) ∧
    hostAction .step s =
      .done { state := s, events := [.faultOut s.fault], error := none, loopAgain := false }

/-- No encoding is illegal: every word completes a step, and every word of the no-op space only advances `PC` by 2
(30_encoding.md R64; the no-op space is decision D4, the fetch bound D11, `IR` D32). A CALL at capacity and a DRW past
memory complete into their core fault. -/
def Obligations.NoEncodingIsIllegal : Prop :=
  ∀ s : State, s.lifecycle ≠ .faulted → s.pc.toNat + 1 ≤ 0xFFF →
    let w := s.mem.readByte s.pc.toNat ++ s.mem.readByte (s.pc.toNat + 1)
    ∃ t, step s = .next t ∧ t.ir = w ∧
      ((fieldOp w ∈ [0x0, 0x9, 0xE, 0xF] ∨ (fieldOp w = 0x8 ∧ 7 ≤ (fieldN w).toNat)) →
        t.pc = s.pc + 2 ∧ PcFrame { s with ir := w } t)

/-- Which steps take a core fault, with what record, and that nothing else is written: the fetch bound first, then
the instruction's own condition (60_exceptions.md R97, R98, R103, R104; decisions D11, D12, D27; the recorded `addr` is log 15). -/
def Obligations.FaultsAreExactlyTheThreeCauses : Prop :=
  ∀ s t : State, step s = .next t →
    let w := s.mem.readByte s.pc.toNat ++ s.mem.readByte (s.pc.toNat + 1)
    let fetchFault := 0xFFF ≤ s.pc.toNat
    let callFault := s.pc.toNat < 0xFFF ∧ s.sp.val = 16 ∧ ∃ nnn, decodeWord w = .call nnn
    let drawFault := s.pc.toNat < 0xFFF ∧ ∃ x y n, decodeWord w = .drw x y n ∧
      0 < n.toNat ∧ 0xFFF < s.i.toNat + n.toNat - 1
    (t.lifecycle = .faulted ↔ fetchFault ∨ callFault ∨ drawFault) ∧
    (fetchFault → FaultTaken (.fetchOutOfBounds s.pc) s t) ∧
    (callFault → FaultTaken (.stackOverflow s.pc) { s with ir := w } t) ∧
    (drawFault → FaultTaken (.readOutOfBounds s.pc 0x1000) { s with ir := w } t)

/-- The codes of the causes and of the host errors (60_exceptions.md R97, R100; decision D27: labels). -/
def Obligations.FaultCodesAreAsListed : Prop :=
  ∀ pc addr : Word, FaultRecord.code .none = 0 ∧ FaultRecord.code (.stackOverflow pc) = 1 ∧
    FaultRecord.code (.fetchOutOfBounds pc) = 2 ∧ FaultRecord.code (.readOutOfBounds pc addr) = 3 ∧
    HostError.code .regIndexOutOfRange = 0x81 ∧ HostError.code .memAddressOutOfRange = 0x82 ∧
    HostError.code .loadOutOfRange = 0x83

/-! ### Control transfer -/

/-- JP: `PC` is the zero-extended target, any target, and nothing else changes (40_control_flow.md R67); after a jump to
0xFFF the next step raises FETCH_OUT_OF_BOUNDS, which is decision D11 (log 14). -/
def Obligations.JpSetsPc : Prop :=
  ∀ (nnn : Addr) (s : State), ∃ t, exec (.jp nnn) s = .next t ∧ t.pc.toNat = nnn.toNat ∧
    PcFrame s t ∧
    (nnn = 0xFFF → s.lifecycle ≠ .faulted →
      ∃ u, step t = .next u ∧ u.fault = .fetchOutOfBounds 0xFFF ∧ u.lifecycle = .faulted)

/-- CALL below capacity: the CALL's own address is pushed at `stack[SP]`, `SP` grows by one, `PC` is the target, and
nothing else changes (40_control_flow.md R68; decision D38: the value pushed). -/
def Obligations.CallPushesItsOwnAddress : Prop :=
  ∀ (nnn : Addr) (s : State) (h : s.sp.val < 16), ∃ t, exec (.call nnn) s = .next t ∧
    t.stack[s.sp.val]'h = s.pc ∧ t.sp.val = s.sp.val + 1 ∧ t.pc.toNat = nnn.toNat ∧
    (∀ k : Fin 16, k.val ≠ s.sp.val → t.stack[k.val] = s.stack[k.val]) ∧
    SameRegistersBut (fun _ => False) s t ∧ t.i = s.i ∧ SameMemory s t ∧ SameScreen s t ∧
    SameBookkeeping s t ∧ t.draws = s.draws

/-- `SP` is 0 to 16, moved by CALL alone, by one; a CALL with `SP = 16` is a stack-overflow fault and `SP` stays 16; `SP` is 0
after reset (10_state.md R23). The range and the counting are decision D9, the bound is the type `Fin 17` of log 18, and
FAULTED with the record and its `pc` is decisions D18 and D27. -/
def Obligations.OnlyCallMovesTheStackPointer : Prop :=
  (∀ (i : Instr) (s t : State), exec i s = .next t →
    ((∀ nnn, i ≠ .call nnn) → t.sp = s.sp) ∧
    ((∃ nnn, i = .call nnn) → s.sp.val < 16 → t.sp.val = s.sp.val + 1) ∧
    ((∃ nnn, i = .call nnn) → s.sp.val = 16 → t.sp.val = 16 ∧ t.lifecycle = .faulted ∧
      t.fault = .stackOverflow s.pc)) ∧
  ∀ s : State, s.sp.val ≤ 16 ∧ s.hostReset.sp.val = 0

/-- The 17th CALL takes STACK_OVERFLOW and writes nothing (40_control_flow.md R68, 60_exceptions.md R97, R98; the
record is decision D27, the precise stop decision D19). -/
def Obligations.CallAtCapacityOverflows : Prop :=
  ∀ (nnn : Addr) (s : State), s.sp.val = 16 →
    ∃ t, exec (.call nnn) s = .next t ∧ FaultTaken (.stackOverflow s.pc) s t

/-- SE Vx, nn: `PC` moves by 4 when `Vx` equals the immediate, else by 2, and nothing else changes; from 0xFFE both
ways meet the halting condition (R69). -/
def Obligations.SkipIfEqualsImmediate : Prop :=
  ∀ (x : RegIdx) (nn : Byte) (s : State), ∃ t, exec (.seImm x nn) s = .next t ∧
    (s.readV x = nn → t.pc = s.pc + 4) ∧ (s.readV x ≠ nn → t.pc = s.pc + 2) ∧ PcFrame s t ∧
    (s.pc = 0xFFE → t.atHalt = true)

/-- SNE Vx, nn: `PC` moves by 4 when `Vx` differs from the immediate, else by 2, and nothing else changes; from 0xFFE
both ways meet the halting condition (R70). -/
def Obligations.SkipIfDiffersFromImmediate : Prop :=
  ∀ (x : RegIdx) (nn : Byte) (s : State), ∃ t, exec (.sneImm x nn) s = .next t ∧
    (s.readV x ≠ nn → t.pc = s.pc + 4) ∧ (s.readV x = nn → t.pc = s.pc + 2) ∧ PcFrame s t ∧
    (s.pc = 0xFFE → t.atHalt = true)

/-- SE Vx, Vy: `PC` moves by 4 when the registers are equal, else by 2, for every value of the low nibble
(40_control_flow.md R71; decision D5: the ignored nibble). -/
def Obligations.SkipIfRegistersEqual : Prop :=
  ∀ (x y : RegIdx) (n : Nibble) (s : State), ∃ t, exec (.seReg x y n) s = .next t ∧
    (s.readV x = s.readV y → t.pc = s.pc + 4) ∧ (s.readV x ≠ s.readV y → t.pc = s.pc + 2) ∧
    PcFrame s t

/-- JP V0, nnn: `PC` is the exact sum, not masked to 12 bits, and nothing else changes (40_control_flow.md R72;
decision D10, log 9). -/
def Obligations.OffsetJumpIsNotMasked : Prop :=
  ∀ (nnn : Addr) (s : State), ∃ t, exec (.jpV0 nnn) s = .next t ∧
    t.pc.toNat = nnn.toNat + (s.readV 0).toNat ∧ PcFrame s t

/-- An even `PC` stays even under every instruction that is not a jump (10_state.md R20). -/
def Obligations.EvenPcStaysEven : Prop :=
  ∀ (i : Instr) (s t : State), exec i s = .next t → ¬ i.IsJump → s.pc.toNat % 2 = 0 →
    t.pc.toNat % 2 = 0

/-! ### Immediate load and add -/

/-- LD Vx, nn (R74). -/
def Obligations.LoadImmediateWritesVx : Prop :=
  ∀ (x : RegIdx) (nn : Byte) (s : State), ∃ t, exec (.ldImm x nn) s = .next t ∧
    t.readV x = nn ∧ SameRegistersBut (· = x) s t ∧ t.pc = s.pc + 2 ∧ RegisterFrame s t

/-- ADD Vx, nn: modulo 256, no flag written, `VF` included when it is not the destination; and loading `a` then adding
`b` leaves `(a + b) mod 256` with no effect on any other register (R75). -/
def Obligations.AddImmediateWritesNoFlag : Prop :=
  (∀ (x : RegIdx) (nn : Byte) (s : State), ∃ t, exec (.addImm x nn) s = .next t ∧
    (t.readV x).toNat = ((s.readV x).toNat + nn.toNat) % 256 ∧ SameRegistersBut (· = x) s t ∧
    t.pc = s.pc + 2 ∧ RegisterFrame s t) ∧
  ∀ (x : RegIdx) (a b : Byte) (s u t : State), exec (.ldImm x a) s = .next u →
    exec (.addImm x b) u = .next t →
    (t.readV x).toNat = (a.toNat + b.toNat) % 256 ∧ SameRegistersBut (· = x) s t

/-! ### Family 8 -/

/-- LD Vx, Vy (R76). -/
def Obligations.CopyRegister : Prop :=
  ∀ (x y : RegIdx) (s : State), ∃ t, exec (.ldReg x y) s = .next t ∧
    t.readV x = s.readV y ∧ SameRegistersBut (· = x) s t ∧ t.pc = s.pc + 2 ∧ RegisterFrame s t

/-- OR, AND and XOR write `Vx` bitwise and no flag (R77, R78, R79). -/
def Obligations.LogicWritesVxAndNoFlag : Prop :=
  ∀ (x y : RegIdx) (s : State),
    (∃ t, exec (.orReg x y) s = .next t ∧
      (∀ k, (t.readV x).getLsbD k = ((s.readV x).getLsbD k || (s.readV y).getLsbD k)) ∧
      SameRegistersBut (· = x) s t ∧ t.pc = s.pc + 2 ∧ RegisterFrame s t) ∧
    (∃ t, exec (.andReg x y) s = .next t ∧
      (∀ k, (t.readV x).getLsbD k = ((s.readV x).getLsbD k && (s.readV y).getLsbD k)) ∧
      SameRegistersBut (· = x) s t ∧ t.pc = s.pc + 2 ∧ RegisterFrame s t) ∧
    (∃ t, exec (.xorReg x y) s = .next t ∧
      (∀ k, (t.readV x).getLsbD k = ((s.readV x).getLsbD k ^^ (s.readV y).getLsbD k)) ∧
      SameRegistersBut (· = x) s t ∧ t.pc = s.pc + 2 ∧ RegisterFrame s t)

/-- ADD Vx, Vy: the sum modulo 256 in `Vx`, the carry in `VF`, the carry surviving when `x = F` (R80). -/
def Obligations.AddRegistersWritesCarry : Prop :=
  ∀ (x y : RegIdx) (s : State), ∃ t, exec (.addReg x y) s = .next t ∧
    (x ≠ vf → (t.readV x).toNat = ((s.readV x).toNat + (s.readV y).toNat) % 256) ∧
    ((s.readV x).toNat + (s.readV y).toNat > 255 → t.readV vf = 1) ∧
    ((s.readV x).toNat + (s.readV y).toNat ≤ 255 → t.readV vf = 0) ∧
    SameRegistersBut (fun r => r = x ∨ r = vf) s t ∧ t.pc = s.pc + 2 ∧ RegisterFrame s t

/-- SUB Vx, Vy: `Vx - Vy` modulo 256 in `Vx`, `VF` 1 for no borrow, the flag surviving when `x = F` (42_alu.md R81;
decision D8: the minuend is `Vx`; decision D7: the flag is last; log 8). -/
def Obligations.SubtractWritesNoBorrow : Prop :=
  ∀ (x y : RegIdx) (s : State), ∃ t, exec (.sub x y) s = .next t ∧
    (x ≠ vf → ((t.readV x).toNat : Int) = ((s.readV x).toNat - (s.readV y).toNat : Int) % 256) ∧
    ((s.readV y).toNat > (s.readV x).toNat → t.readV vf = 0) ∧
    ((s.readV y).toNat ≤ (s.readV x).toNat → t.readV vf = 1) ∧
    SameRegistersBut (fun r => r = x ∨ r = vf) s t ∧ t.pc = s.pc + 2 ∧ RegisterFrame s t

/-- SHR of this hardware, whose source is `Vx`: half of it in `Vx` and its bit 0 in `VF`, the flag surviving when
`x = F` (42_alu.md R82; decisions D6, D7; log 6). -/
def Obligations.ShiftRightOfVx : Prop :=
  ∀ (x y : RegIdx) (s : State), ∃ t, exec (.shr x y) s = .next t ∧
    (x ≠ vf → (t.readV x).toNat = (s.readV x).toNat / 2) ∧
    (t.readV vf).toNat = (s.readV x).toNat % 2 ∧
    SameRegistersBut (fun r => r = x ∨ r = vf) s t ∧ t.pc = s.pc + 2 ∧ RegisterFrame s t

/-- The shift with the parameter `SHR_SOURCE` as an argument: for BOTH values it halves the register the parameter
names and captures its bit 0; SHR takes the value X (42_alu.md R82, 00_scope.md R5; decisions D6, D7; log 6). -/
def Obligations.ShiftRightForEitherSource : Prop :=
  ∀ (source : Config.ShrSource) (x y : RegIdx) (s : State),
    let a := if source = .x then s.readV x else s.readV y
    (source = .x → exec (.shr x y) s = execShrFrom source x y s) ∧
    ∃ t, execShrFrom source x y s = .next t ∧
      (x ≠ vf → (t.readV x).toNat = a.toNat / 2) ∧ (t.readV vf).toNat = a.toNat % 2 ∧
      SameRegistersBut (fun r => r = x ∨ r = vf) s t ∧ t.pc = s.pc + 2 ∧ RegisterFrame s t

/-! ### Address register and random byte -/

/-- LD I, nnn: the zero-extended field, and nothing else but the advance; no other instruction writes `I`, so a step
keeps it at most 0xFFF (R85). -/
def Obligations.LoadIWritesIAndNothingElseDoes : Prop :=
  (∀ (nnn : Addr) (s : State), ∃ t, exec (.ldI nnn) s = .next t ∧ t.i.toNat = nnn.toNat ∧
    t.pc = s.pc + 2 ∧ SameRegistersBut (fun _ => False) s t ∧ SameStack s t ∧ SameMemory s t ∧
    SameScreen s t ∧ SameBookkeeping s t ∧ t.draws = s.draws) ∧
  (∀ (i : Instr) (s t : State), exec i s = .next t → (∀ nnn, i ≠ .ldI nnn) → t.i = s.i) ∧
  ∀ s t : State, step s = .next t → s.i.toNat ≤ 0xFFF → t.i.toNat ≤ 0xFFF

/-- RND: the byte drawn, masked, in `Vx`, whatever byte is drawn; a draw is used up, so the next one is another
(43_address_random.md R86; decision D25; the free value is log 1, and this holds for every value of it). -/
def Obligations.RandomByteIsMasked : Prop :=
  ∀ (x : RegIdx) (nn : Byte) (s : State), ∃ t, exec (.rnd x nn) s = .next t ∧
    t.readV x = Config.drawByte s.draws &&& nn ∧ t.readV x &&& ~~~nn = 0 ∧
    (nn = 0 → t.readV x = 0) ∧ SameRegistersBut (· = x) s t ∧ t.pc = s.pc + 2 ∧ t.i = s.i ∧
    SameStack s t ∧ SameMemory s t ∧ SameScreen s t ∧ SameBookkeeping s t ∧
    t.draws = s.draws + 1

/-! ### Sprite draw -/

/-- DRW in bounds: the pixels under a 1 bit of the sprite are inverted and no other, `VF` says whether one of them was
set, and nothing else changes (44_draw.md R87 to R89; decisions D12 to D15). `n = 0` is covered: no pixel, `VF = 0`. -/
def Obligations.DrawXorsTheSprite : Prop :=
  ∀ (x y : RegIdx) (n : Nibble) (s : State), n.toNat = 0 ∨ s.i.toNat + n.toNat - 1 ≤ 0xFFF →
    ∃ t, exec (.drw x y n) s = .next t ∧
      (∀ px py, (SpriteSets s (s.readV x) (s.readV y) n px py → t.pixel px py = !s.pixel px py) ∧
        (¬ SpriteSets s (s.readV x) (s.readV y) n px py → t.pixel px py = s.pixel px py)) ∧
      ((∃ px py, SpriteSets s (s.readV x) (s.readV y) n px py ∧ s.pixel px py = true) →
        t.readV vf = 1) ∧
      ((¬ ∃ px py, SpriteSets s (s.readV x) (s.readV y) n px py ∧ s.pixel px py = true) →
        t.readV vf = 0) ∧
      SameRegistersBut (· = vf) s t ∧ t.pc = s.pc + 2 ∧ t.i = s.i ∧ SameStack s t ∧
      SameMemory s t ∧ SameBookkeeping s t ∧ t.draws = s.draws

/-- DRW with a row past 0xFFF takes READ_OUT_OF_BOUNDS before any write (44_draw.md R87; decision D12; the recorded
`addr` is log 15). -/
def Obligations.DrawPastMemoryFaults : Prop :=
  ∀ (x y : RegIdx) (n : Nibble) (s : State), 0 < n.toNat → 0xFFF < s.i.toNat + n.toNat - 1 →
    ∃ t, exec (.drw x y n) s = .next t ∧ FaultTaken (.readOutOfBounds s.pc 0x1000) s t

/-- Drawing the same sprite twice at the same place restores the framebuffer; the second draw reports a collision
exactly when some pixel of the sprite was clear before the first (44_draw.md R87; log 16 on the rule's own wording). -/
def Obligations.DrawingTwiceRestoresTheScreen : Prop :=
  ∀ (x y : RegIdx) (n : Nibble) (s u t : State), x ≠ vf → y ≠ vf →
    n.toNat = 0 ∨ s.i.toNat + n.toNat - 1 ≤ 0xFFF →
    exec (.drw x y n) s = .next u → exec (.drw x y n) u = .next t →
    SameScreen s t ∧
    (t.readV vf = 1 ↔
      ∃ px py, SpriteSets s (s.readV x) (s.readV y) n px py ∧ s.pixel px py = false)

/-! ### Unassigned encodings -/

/-- Every unassigned encoding (NOP_0, NOP_9, NOP_E, NOP_F, NOP_8_7 to NOP_8_F) completes, advances `PC` by 2 and changes
nothing else: the handler stays a no-op and signals no error (R95). -/
def Obligations.NoOpsOnlyAdvance : Prop :=
  ∀ (i : Instr) (s : State), i.IsNoOp →
    ∃ t, exec i s = .next t ∧ t.pc = s.pc + 2 ∧ PcFrame s t

/-! ### Whole-machine rules -/

/-- An instruction changes no data register but the destination it names, and `VF` where it writes a flag
(10_state.md R14, R16). -/
def Obligations.RegistersChangeOnlyAsListed : Prop :=
  ∀ (i : Instr) (s t : State) (r : RegIdx), exec i s = .next t →
    i.destination? ≠ some r → ¬ (i.WritesFlag ∧ r = vf) → t.readV r = s.readV r

/-- No instruction writes memory, and no host command does but reset, a load, and a run, which does both
(20_memory.md R40). -/
def Obligations.OnlyHostWritesMemory : Prop :=
  (∀ (i : Instr) (s t : State), exec i s = .next t → t.mem = s.mem) ∧
  ∀ (c : HostCommand) (s : State) (r : HostResult), hostAction c s = .done r →
    c ≠ .reset → (∀ bytes origin, c ≠ .loadProgram bytes origin) → (∀ bytes, c ≠ .run bytes) → r.state.mem = s.mem

/-- Only DXYN and a reset write the framebuffer: no other instruction, and no host command but reset (which clears it),
run, and those that step the core (20_memory.md R37; 90_conflicts.md C10). -/
def Obligations.OnlyDrawWritesTheScreen : Prop :=
  (∀ (i : Instr) (s t : State), exec i s = .next t → i.mnemonic ≠ .drw → SameScreen s t) ∧
  (∀ (s : State) (bytes : List Byte) (origin : Option Nat) (r : HostResult),
    hostAction (.loadProgram bytes origin) s = .done r → SameScreen s r.state) ∧
  (∀ (s : State) (keys : BitVec 16) (r : HostResult),
    hostAction (.keyIn keys) s = .done r → SameScreen s r.state) ∧
  ∀ s : State, ∀ px py, s.hostReset.pixel px py = false

/-- An instruction that does not fault leaves `IR`, the lifecycle, `running`, `programLength` and the fault record as
they are; one that faults leaves `IR` and `programLength` (10_state.md R27 to R31). -/
def Obligations.InstructionsKeepTheBookkeeping : Prop :=
  ∀ (i : Instr) (s t : State), exec i s = .next t →
    SameBookkeeping s t ∨
      (t.ir = s.ir ∧ t.programLength = s.programLength ∧ t.lifecycle = .faulted ∧ t.fault ≠ .none)

/-- No instruction reads the stack's entries, `IR`, `programLength`, the lifecycle, `running` or the fault record: two
states that agree on the rest go to states that agree on the rest (10_state.md R35). -/
def Obligations.HiddenStateIsNeverRead : Prop :=
  ∀ (i : Instr) (s s' t : State),
    s'.v = s.v → s'.i = s.i → s'.pc = s.pc → s'.sp = s.sp → s'.mem = s.mem → s'.fb = s.fb →
    s'.draws = s.draws → exec i s = .next t →
    ∃ t', exec i s' = .next t' ∧ t'.v = t.v ∧ t'.i = t.i ∧ t'.pc = t.pc ∧ t'.sp = t.sp ∧
      t'.mem = t.mem ∧ t'.fb = t.fb ∧ t'.draws = t.draws

/-- Every instruction but RND is a function of the spec's own state: the free bytes do not reach it. `running` after a
fault is left out, being a draw itself (00_scope.md R9, 10_state.md R34; log 1, log 2). -/
def Obligations.OnlyRandomReadsTheDraws : Prop :=
  ∀ (i : Instr) (s t : State) (d : Nat), i.mnemonic ≠ .rnd → exec i s = .next t →
    ∃ t', exec i { s with draws := d } = .next t' ∧ t'.v = t.v ∧ t'.i = t.i ∧ t'.pc = t.pc ∧
      t'.stack = t.stack ∧ t'.sp = t.sp ∧ t'.mem = t.mem ∧ t'.fb = t.fb ∧
      t'.lifecycle = t.lifecycle ∧ t'.ir = t.ir ∧ t'.programLength = t.programLength ∧
      t'.fault = t.fault ∧ (t.lifecycle ≠ .faulted → t'.running = t.running)

/-- In a run of `k` steps that ends without a fault, `SP` has grown by the number of CALLs executed, so at most 16 calls
are made between resets (10_state.md R23, 70_reset_and_hazards.md R133). -/
def Obligations.SafeRunMakesAtMostSixteenCalls : Prop :=
  ∀ (k : Nat) (s t : State), SafeRun k s t → t.sp.val = s.sp.val + callsIn k s ∧ callsIn k s ≤ 16

/-! ### The invariant -/

/-- The invariant holds after reset (10_state.md R32). -/
def Obligations.ResetMeetsTheInvariant : Prop := State.Inv State.reset

/-- Every step keeps the invariant: memory stays canonical, `I` at most 0xFFF, `PC` at most 0x10FE, the stack is clear
above `SP` and holds addresses of CALLs below it, `running` and the fault record agree with the lifecycle (10_state.md
R18, R21, R24, R28, R30, R31; decisions D9, D18, D27). -/
def Obligations.StepKeepsTheInvariant : Prop :=
  ∀ s t : State, s.Inv → step s = .next t → t.Inv

/-- Every host command keeps the invariant, in every lifecycle state, so it holds at every yield point (10_state.md R30,
60_exceptions.md R114, 70_reset_and_hazards.md R127). -/
def Obligations.HostCommandsKeepTheInvariant : Prop :=
  ∀ (c : HostCommand) (s : State) (r : HostResult), s.Inv → hostAction c s = .done r → r.state.Inv

/-! ### Host interface -/

/-- A load within memory, at the origin given or at 0x200 when none is, writes exactly its bytes and `programLength`;
nothing else changes and nothing is signalled (60_exceptions.md R114, 70_reset_and_hazards.md R122, R123; decisions D21,
D31). -/
def Obligations.LoadWritesExactlyItsBytes : Prop :=
  ∀ (bytes : List Byte) (origin : Option Nat) (s : State), let a₀ := origin.getD 0x200
    s.mem.wf = true → a₀ + bytes.length ≤ 4096 →
    ∃ t, hostAction (.loadProgram bytes origin) s = .done (.quiet t) ∧
      t.programLength = bytes.length ∧
      (∀ j (h : j < bytes.length), t.mem.readByte (a₀ + j) = bytes[j]) ∧
      (∀ a, a < a₀ ∨ a₀ + bytes.length ≤ a → t.mem.readByte a = s.mem.readByte a) ∧
      SameRegistersBut (fun _ => False) s t ∧ t.i = s.i ∧ t.pc = s.pc ∧ SameStack s t ∧
      SameScreen s t ∧ t.ir = s.ir ∧ t.lifecycle = s.lifecycle ∧ t.running = s.running ∧
      t.fault = s.fault ∧ t.draws = s.draws

/-- A load past the end of memory, at the origin given or at 0x200 when none is, is refused with LOAD_OUT_OF_RANGE and
changes nothing: decision D21 (70_reset_and_hazards.md R122, 60_exceptions.md R100, R114). -/
def Obligations.OverlongLoadChangesNothing : Prop :=
  ∀ (bytes : List Byte) (origin : Option Nat) (s : State),
    4096 < origin.getD 0x200 + bytes.length →
    hostAction (.loadProgram bytes origin) s =
      .done { state := s, events := [], error := some .loadOutOfRange, loopAgain := false }

/-- `run`: reset, load at 0x200, RUNNING, and the loop to be invoked; a failed load leaves the reset state; a run while
RUNNING is refused (70_reset_and_hazards.md R124, R127; decisions D21, D23). -/
def Obligations.RunResetsLoadsAndStarts : Prop :=
  ∀ (bytes : List Byte) (s : State),
    (s.lifecycle = .running → hostAction (.run bytes) s = .refused .runWhileRunning) ∧
    (s.lifecycle ≠ .running → bytes.length ≤ 3584 →
      ∃ t, hostAction (.run bytes) s =
          .done { state := t, events := [], error := none, loopAgain := true } ∧
        t.lifecycle = .running ∧ t.running = true ∧ t.programLength = bytes.length ∧
        (∀ j (h : j < bytes.length), t.mem.readByte (0x200 + j) = bytes[j]) ∧
        (∀ a, a < 0x200 ∨ 0x200 + bytes.length ≤ a → t.mem.readByte a = 0) ∧
        ResetElements { t with mem := [], programLength := 0, lifecycle := .idle,
                               running := false }) ∧
    (s.lifecycle ≠ .running → 3584 < bytes.length →
      ∃ t, hostAction (.run bytes) s =
          .done { state := t, events := [], error := some .loadOutOfRange, loopAgain := false } ∧
        ResetElements t)

/-- One invocation of the run loop in RUNNING: the halt at `PC >= 4096`, tested before the fetch, with the completion
signalled and no further invocation; else one step, FAULT_OUT if it faulted, and another invocation
(70_reset_and_hazards.md R125, R126; decisions D17, D20). -/
def Obligations.RunLoopHaltsOrSteps : Prop :=
  ∀ s : State, s.lifecycle = .running →
    (4096 ≤ s.pc.toNat → hostAction .invokeLoop s =
      .done { state := { s with lifecycle := .halted, running := false },
              events := [.completeOut], error := none, loopAgain := false }) ∧
    (s.pc.toNat < 4096 → ∃ t, step s = .next t ∧ hostAction .invokeLoop s =
      .done { state := t, events := if t.lifecycle = .faulted then [.faultOut t.fault] else [],
              error := none, loopAgain := true })

/-- A reset in mid-run ends the loop at its next invocation without a step; whether COMPLETE_OUT is then signalled is a
draw, once or not at all (70_reset_and_hazards.md R121; decision D23; log 3). -/
def Obligations.ResetEndsTheRun : Prop :=
  ∀ s : State, s.lifecycle = .running →
    ∃ r, hostAction .invokeLoop s.hostReset = .done r ∧ r.loopAgain = false ∧
      (r.events = [] ∨ r.events = [.completeOut]) ∧ ResetElements r.state

/-- A continuous run, for every number of loop invocations: COMPLETE_OUT is signalled at most once, and exactly when the
run has ended in HALTED; FAULT_OUT is signalled at most once, and exactly when it has ended in FAULTED; never both
(70_reset_and_hazards.md R125 to R127, 60_exceptions.md R99; decisions D18, D20). -/
def Obligations.CompletionIsSignalledExactlyOnce : Prop :=
  ∀ (fuel : Nat) (s : State), s.lifecycle = .running →
    let (t, events) := continuousRun fuel s
    (t.lifecycle = .running ∧ events = []) ∨
    (t.lifecycle = .halted ∧ 4096 ≤ t.pc.toNat ∧ events = [.completeOut]) ∨
    (t.lifecycle = .faulted ∧ events = [.faultOut t.fault])

/-- Where a loaded program never reaches the halt or a fault, the run goes on for any number of invocations: one step
each (70_reset_and_hazards.md R125, R129). -/
def Obligations.RunningLoopIsRepeatedSteps : Prop :=
  ∀ (fuel : Nat) (s t : State), s.lifecycle = .running →
    continuousRun fuel s = (t, []) → Sys2Proof.core.run fuel s = .next t

/-- The accessors return the state, and reject a register index above 15 and an address above 0xFFF
(60_exceptions.md R100, R110; decisions D27, D30). -/
def Obligations.AccessorsReturnTheStateOrReject : Prop :=
  ∀ s : State,
    (∀ r : RegIdx, dbgRegister s r.toNat = .ok (s.readV r)) ∧
    (∀ k, 16 ≤ k → dbgRegister s k = .error .regIndexOutOfRange) ∧
    (∀ a, a < 4096 → dbgMemoryByte s a = .ok (s.mem.readByte a)) ∧
    (∀ a, 4096 ≤ a → dbgMemoryByte s a = .error .memAddressOutOfRange) ∧
    (∀ a (h : a < 4096), (dbgMemory s)[a] = s.mem.readByte a) ∧
    dbgInstructionWord s = s.ir ∧ dbgPc s = s.pc ∧ dbgStack s = (s.stack, s.sp.val) ∧
    dbgAddressRegister s = s.i ∧ dbgRunning s = s.running ∧ dbgRegisters s = s.v ∧ fbOut s = s.fb

/-- The key-state is never read: a change of `KEY_IN` changes nothing and signals nothing (60_exceptions.md R112;
decision D24). -/
def Obligations.KeysAffectNothing : Prop :=
  ∀ (keys : BitVec 16) (s : State), hostAction (.keyIn keys) s = .done (.quiet s)

/-! ### `SHR_SOURCE` as an argument of the model -/

/-- The model takes `SHR_SOURCE` as an argument: SHR is the shift of that source, every other instruction, every fetch
and every host command that steps no instruction is as before, and at the value X the model is the model of this hardware
(00_scope.md R5, 42_alu.md R82; decision D6, log 6). -/
def Obligations.ShiftSourceIsAnArgument : Prop :=
  (∀ (source : Config.ShrSource) (x y : RegIdx) (s : State),
    execWith source (.shr x y) s = execShrFrom source x y s) ∧
  (∀ (source : Config.ShrSource) (i : Instr) (s : State), i.mnemonic ≠ .shr →
    execWith source i s = exec i s) ∧
  (∀ (source : Config.ShrSource) (s : State), s.lifecycle ≠ .faulted → s.pc.toNat + 1 ≤ 0xFFF →
    stepWith source s = execWith source
      (decodeWord (s.mem.readByte s.pc.toNat ++ s.mem.readByte (s.pc.toNat + 1)))
      { s with ir := s.mem.readByte s.pc.toNat ++ s.mem.readByte (s.pc.toNat + 1) }) ∧
  (∀ (source : Config.ShrSource) (s : State), s.lifecycle = .faulted ∨ 0xFFF ≤ s.pc.toNat →
    stepWith source s = step s) ∧
  (∀ (source : Config.ShrSource) (c : HostCommand) (s : State), c ≠ .step → c ≠ .invokeLoop →
    hostActionWith source c s = hostAction c s) ∧
  (∀ s : State, stepWith .x s = step s) ∧
  (∀ (c : HostCommand) (s : State), hostActionWith .x c s = hostAction c s) ∧
  ∀ (fuel : Nat) (s : State), continuousRunWith .x fuel s = continuousRun fuel s

/-- For either value of `SHR_SOURCE` every step and every host command keeps the invariant, and `reset` is the same
(00_scope.md R5, 10_state.md R32; decision D6, log 6). -/
def Obligations.EitherShiftSourceKeepsTheInvariant : Prop :=
  ∀ source : Config.ShrSource,
    (∀ s t : State, s.Inv → stepWith source s = .next t → t.Inv) ∧
    (∀ (c : HostCommand) (s : State) (r : HostResult), s.Inv →
      hostActionWith source c s = .done r → r.state.Inv) ∧
    (coreWith source).reset = State.reset
end

