-- ==== Sys2Proof/Laws/Decode.lean ====
section
/-!
SUPPORT. The bits of words: of two bytes combined, and of the three formats; and what the masks of the opcode
table leave of a format.
-/

namespace Sys2Proof

/-- A bit vector's value fits a field of its width. -/
theorem Operand.fits_toNat {w : Nat} (b : BitVec w) : Operand.fits ⟨w, b.toNat⟩ = true :=
  decide_eq_true b.isLt

/-- Every term of `Instr` is well-formed: its fields have the widths of R57. -/
theorem Instr.wellFormed_eq_true (i : Instr) : i.wellFormed = true := by
  cases i <;>
    simp only [Instr.wellFormed, Instr.operands, List.all_cons, List.all_nil, Operand.fits_toNat,
      Bool.and_true]

/-- The bits of two bytes combined big-endian (R44). -/
theorem wordOfBytes_getLsbD (hi lo : Byte) (i : Nat) :
    (wordOfBytes hi lo).getLsbD i = if i < 8 then lo.getLsbD i else hi.getLsbD (i - 8) :=
  BitVec.getLsbD_append

/-- A word is its high byte and its low byte combined (R44). -/
theorem wordOfBytes_highByte_lowByte (w : Word) : wordOfBytes (highByte w) (lowByte w) = w := by
  apply BitVec.eq_of_getLsbD_eq
  intro i hi
  rw [wordOfBytes_getLsbD]
  by_cases h : i < 8
  · simp [lowByte, h]
  · simp [highByte, h, show i - 8 < 8 by omega, show 8 + (i - 8) = i by omega]

/-- The bits of format A (R58). -/
theorem formatA_getLsbD (op : Nibble) (nnn : Addr) (i : Nat) :
    (formatA op nnn).getLsbD i = if i < 12 then nnn.getLsbD i else op.getLsbD (i - 12) :=
  BitVec.getLsbD_append

/-- The bits of format B (R58). -/
theorem formatB_getLsbD (op : Nibble) (x : RegIdx) (nn : Byte) (i : Nat) :
    (formatB op x nn).getLsbD i =
      if i < 12 then (if i < 8 then nn.getLsbD i else x.getLsbD (i - 8))
      else op.getLsbD (i - 12) := by
  rw [formatB]
  refine BitVec.getLsbD_append.trans ?_
  congr 1
  exact BitVec.getLsbD_append

/-- The bits of format C (R58). -/
theorem formatC_getLsbD (op : Nibble) (x y : RegIdx) (n : Nibble) (i : Nat) :
    (formatC op x y n).getLsbD i =
      if i < 12 then
        (if i < 8 then (if i < 4 then n.getLsbD i else y.getLsbD (i - 4))
         else x.getLsbD (i - 8))
      else op.getLsbD (i - 12) := by
  rw [formatC]
  refine BitVec.getLsbD_append.trans ?_
  congr 1
  refine BitVec.getLsbD_append.trans ?_
  congr 1
  exact BitVec.getLsbD_append

/-- The mask 0xF000 leaves the primary opcode of format A. -/
theorem formatA_mask (op : Nibble) (nnn : Addr) : formatA op nnn &&& 0xF000 = formatA op 0 := by
  apply BitVec.eq_of_getLsbD_eq
  intro i hi
  rw [BitVec.getLsbD_and, formatA_getLsbD, formatA_getLsbD]
  interval_cases i <;> simp

/-- The mask 0xF000 leaves the primary opcode of format B. -/
theorem formatB_mask (op : Nibble) (x : RegIdx) (nn : Byte) :
    formatB op x nn &&& 0xF000 = formatA op 0 := by
  apply BitVec.eq_of_getLsbD_eq
  intro i hi
  rw [BitVec.getLsbD_and, formatB_getLsbD, formatA_getLsbD]
  interval_cases i <;> simp

/-- The mask 0xF000 leaves the primary opcode of format C. -/
theorem formatC_mask (op : Nibble) (x y : RegIdx) (n : Nibble) :
    formatC op x y n &&& 0xF000 = formatA op 0 := by
  apply BitVec.eq_of_getLsbD_eq
  intro i hi
  rw [BitVec.getLsbD_and, formatC_getLsbD, formatA_getLsbD]
  interval_cases i <;> simp

/-- The mask 0xF00F leaves the primary opcode and the sub-opcode of format C. -/
theorem formatC_mask_sub (op : Nibble) (x y : RegIdx) (n : Nibble) :
    formatC op x y n &&& 0xF00F = formatC op 0 0 n := by
  apply BitVec.eq_of_getLsbD_eq
  intro i hi
  rw [BitVec.getLsbD_and, formatC_getLsbD, formatC_getLsbD]
  interval_cases i <;> simp

/-- A row holds a word whose masked bits are its pattern. -/
theorem OpcodeRow.holds_of_mask {r : OpcodeRow} {w p : Word} (h : w &&& r.mask = p)
    (hp : p = r.pattern) : r.holds w = true := by
  unfold OpcodeRow.holds
  rw [h, hp, beq_self_eq_true]

end Sys2Proof
end

