-- ==== Sys2Proof/Laws/Framebuffer.lean ====
section
/-!
SUPPORT. The framebuffer: toggling a pixel changes that pixel alone, and what one plotted bit does.
-/

namespace Sys2Proof.Machine

/-- Toggling inverts its own pixel and leaves every other alone. -/
theorem Framebuffer.pixel_toggle (f : Framebuffer) (px qx : Fin 64) (py qy : Fin 32) :
    (f.toggle px py).pixel qx qy =
      if px = qx ∧ py = qy then !f.pixel px py else f.pixel qx qy := by
  unfold Framebuffer.toggle Framebuffer.pixel
  simp only [Vector.getElem_set, Fin.ext_iff]
  by_cases hx : px.val = qx.val
  · by_cases hy : py.val = qy.val <;> simp [hx, hy]
  · simp [hx]

/-- One plotted bit: the XOR of its pixel, and a collision when that pixel was set (R88). -/
theorem plotPixel_spec (c : Canvas) (px qx : Fin 64) (py qy : Fin 32) :
    (plotPixel c px py).1.pixel qx qy =
        (if px = qx ∧ py = qy then !c.1.pixel px py else c.1.pixel qx qy) ∧
      (plotPixel c px py).2 = (c.2 || c.1.pixel px py) :=
  ⟨Framebuffer.pixel_toggle _ _ _ _ _, rfl⟩

/-- A 1 bit lands on column `col` when `col < 8`; the coordinates are reduced modulo the grid (R87). -/
@[simp] theorem pixelX_val (vx : Byte) (col : Nat) : (pixelX vx col).val = (vx.toNat + col) % 64 := rfl

@[simp] theorem pixelY_val (vy : Byte) (row : Nat) : (pixelY vy row).val = (vy.toNat + row) % 32 := rfl

/-- Pixel `(qx, qy)` is under a 1 bit in the columns below `k` of a row byte drawn at row `py`. -/
def RowSets (b : Byte) (vx : Byte) (py : Fin 32) (k : Nat) (qx : Fin 64) (qy : Fin 32) : Prop :=
  ∃ col, col < k ∧ spriteBit b col = true ∧ pixelX vx col = qx ∧ py = qy

/-- Pixel `(qx, qy)` is under a 1 bit in the rows below `n` of the sprite at `base` (R87). -/
def RowsSet (m : Memory) (base : Nat) (vx vy : Byte) (n : Nat) (qx : Fin 64) (qy : Fin 32) : Prop :=
  ∃ row, row < n ∧ RowSets (m.readByte (base + row)) vx (pixelY vy row) 8 qx qy

/-- The columns below `k` of one row: their pixels are inverted and no other, and the flag is raised by a pixel
that was set. -/
theorem drawRow_columns (b : Byte) (vx : Byte) (py : Fin 32) (c : Canvas) : ∀ k, k ≤ 8 →
    let d := (List.range k).foldl
      (fun c col => if spriteBit b col then plotPixel c (pixelX vx col) py else c) c
    (∀ qx qy, (RowSets b vx py k qx qy → d.1.pixel qx qy = !c.1.pixel qx qy) ∧
      (¬ RowSets b vx py k qx qy → d.1.pixel qx qy = c.1.pixel qx qy)) ∧
    (d.2 = true ↔ c.2 = true ∨ ∃ qx qy, RowSets b vx py k qx qy ∧ c.1.pixel qx qy = true) := by
  intro k
  induction k with
  | zero => intro _; simp [RowSets]
  | succ k ih =>
    intro hk
    obtain ⟨ih1, ih2⟩ := ih (by omega)
    simp only [List.range_succ, List.foldl_append, List.foldl_cons, List.foldl_nil]
    set d := (List.range k).foldl
      (fun c col => if spriteBit b col then plotPixel c (pixelX vx col) py else c) c
    have hs : ∀ qx qy, RowSets b vx py (k + 1) qx qy ↔
        RowSets b vx py k qx qy ∨ (spriteBit b k = true ∧ pixelX vx k = qx ∧ py = qy) := by
      intro qx qy
      constructor
      · rintro ⟨col, h1, h2⟩
        rcases Nat.lt_succ_iff_lt_or_eq.1 h1 with h | rfl
        · exact .inl ⟨col, h, h2⟩
        · exact .inr h2
      · rintro (⟨col, h1, h2⟩ | h)
        · exact ⟨col, by omega, h2⟩
        · exact ⟨k, by omega, h⟩
    have hnew : ¬ RowSets b vx py k (pixelX vx k) py := by
      rintro ⟨col, h1, h2, h3, _⟩
      have := congrArg Fin.val h3
      simp at this
      omega
    by_cases hb : spriteBit b k = true
    · simp only [hb, if_true, true_and] at hs ⊢
      refine ⟨fun qx qy => ?_, ?_⟩
      · rw [(plotPixel_spec d _ qx _ qy).1, hs]
        by_cases he : pixelX vx k = qx ∧ py = qy
        · obtain ⟨rfl, rfl⟩ := he
          simp [(ih1 _ _).2 hnew]
        · simp only [he, if_false, or_false]; exact ih1 qx qy
      · rw [(plotPixel_spec d (pixelX vx k) 0 py 0).2]
        simp only [Bool.or_eq_true, ih2, hs, (ih1 _ _).2 hnew]
        constructor
        · rintro ((h | ⟨qx, qy, h, h'⟩) | h)
          · exact .inl h
          · exact .inr ⟨qx, qy, .inl h, h'⟩
          · exact .inr ⟨_, _, .inr ⟨rfl, rfl⟩, h⟩
        · rintro (h | ⟨qx, qy, h | ⟨rfl, rfl⟩, h'⟩)
          · exact .inl (.inl h)
          · exact .inl (.inr ⟨qx, qy, h, h'⟩)
          · exact .inr h'
    · have hb' : spriteBit b k = false := by simpa using hb
      simp only [hb', Bool.false_eq_true, false_and, or_false, if_false] at hs ⊢
      simp only [hs]; exact ⟨ih1, ih2⟩

/-- The whole sprite, of at most 15 rows: the pixels under its 1 bits are inverted and no other, and the flag
says whether one of them was set (R87, R88). -/
theorem drawSprite_spec (m : Memory) (base : Nat) (vx vy : Byte) (f : Framebuffer) : ∀ n, n ≤ 15 →
    let d := drawSprite m base vx vy n f
    (∀ qx qy, (RowsSet m base vx vy n qx qy → d.1.pixel qx qy = !f.pixel qx qy) ∧
      (¬ RowsSet m base vx vy n qx qy → d.1.pixel qx qy = f.pixel qx qy)) ∧
    (d.2 = true ↔ ∃ qx qy, RowsSet m base vx vy n qx qy ∧ f.pixel qx qy = true) := by
  intro n
  induction n with
  | zero => intro _; simp [RowsSet, drawSprite]
  | succ n ih =>
    intro hn
    obtain ⟨ih1, ih2⟩ := ih (by omega)
    simp only [drawSprite, List.range_succ, List.foldl_append, List.foldl_cons, List.foldl_nil]
    set d : Canvas := drawSprite m base vx vy n f with hd
    have hdd : (List.range n).foldl
        (fun c row => drawRow (m.readByte (base + row)) vx (pixelY vy row) c) (f, false) = d := rfl
    simp only [hdd]
    obtain ⟨r1, r2⟩ := drawRow_columns (m.readByte (base + n)) vx (pixelY vy n) d 8 (le_refl _)
    have hs : ∀ qx qy, RowsSet m base vx vy (n + 1) qx qy ↔
        RowsSet m base vx vy n qx qy ∨ RowSets (m.readByte (base + n)) vx (pixelY vy n) 8 qx qy := by
      intro qx qy
      constructor
      · rintro ⟨row, h1, h2⟩
        rcases Nat.lt_succ_iff_lt_or_eq.1 h1 with h | rfl
        · exact .inl ⟨row, h, h2⟩
        · exact .inr h2
      · rintro (⟨row, h1, h2⟩ | h)
        · exact ⟨row, by omega, h2⟩
        · exact ⟨n, by omega, h⟩
    have hdis : ∀ qx qy, RowSets (m.readByte (base + n)) vx (pixelY vy n) 8 qx qy →
        ¬ RowsSet m base vx vy n qx qy := by
      rintro qx qy ⟨c, _, _, _, h1⟩ ⟨row, hr, c', _, _, _, h2⟩
      have := congrArg Fin.val (h1.trans h2.symm)
      simp at this
      omega
    refine ⟨fun qx qy => ?_, ?_⟩
    · rw [hs]
      constructor
      · rintro (h | h)
        · exact ((r1 qx qy).2 fun h' => hdis _ _ h' h).trans ((ih1 qx qy).1 h)
        · exact ((r1 qx qy).1 h).trans (by rw [(ih1 qx qy).2 (hdis _ _ h)])
      · intro h
        rw [not_or] at h
        exact ((r1 qx qy).2 h.2).trans ((ih1 qx qy).2 h.1)
    · refine r2.trans ?_
      rw [ih2]
      constructor
      · rintro (⟨qx, qy, h, h'⟩ | ⟨qx, qy, h, h'⟩)
        · exact ⟨qx, qy, (hs _ _).2 (.inl h), h'⟩
        · exact ⟨qx, qy, (hs _ _).2 (.inr h), by rw [← (ih1 qx qy).2 (hdis _ _ h)]; exact h'⟩
      · rintro ⟨qx, qy, h, h'⟩
        rcases (hs _ _).1 h with h | h
        · exact .inl ⟨qx, qy, h, h'⟩
        · exact .inr ⟨qx, qy, h, by rw [(ih1 qx qy).2 (hdis _ _ h)]; exact h'⟩

end Sys2Proof.Machine
end

