-- ==== Sys2Proof/Laws/State.lean ====
section
/-!
SUPPORT. One lemma per field of State and update of it, each true by `rfl`; and what `skipIf` and
`writeVThenFlag` leave alone.
-/

namespace Sys2Proof.Machine

@[simp] theorem State.writeV_v (s : State) (x : RegIdx) (b : Byte) : (s.writeV x b).v = s.v.set x.toNat b x.isLt := rfl
@[simp] theorem State.writeV_i (s : State) (x : RegIdx) (b : Byte) : (s.writeV x b).i = s.i := rfl
@[simp] theorem State.writeV_pc (s : State) (x : RegIdx) (b : Byte) : (s.writeV x b).pc = s.pc := rfl
@[simp] theorem State.writeV_stack (s : State) (x : RegIdx) (b : Byte) : (s.writeV x b).stack = s.stack := rfl
@[simp] theorem State.writeV_sp (s : State) (x : RegIdx) (b : Byte) : (s.writeV x b).sp = s.sp := rfl
@[simp] theorem State.writeV_mem (s : State) (x : RegIdx) (b : Byte) : (s.writeV x b).mem = s.mem := rfl
@[simp] theorem State.writeV_fb (s : State) (x : RegIdx) (b : Byte) : (s.writeV x b).fb = s.fb := rfl
@[simp] theorem State.writeV_lifecycle (s : State) (x : RegIdx) (b : Byte) : (s.writeV x b).lifecycle = s.lifecycle := rfl
@[simp] theorem State.writeV_running (s : State) (x : RegIdx) (b : Byte) : (s.writeV x b).running = s.running := rfl
@[simp] theorem State.writeV_ir (s : State) (x : RegIdx) (b : Byte) : (s.writeV x b).ir = s.ir := rfl
@[simp] theorem State.writeV_programLength (s : State) (x : RegIdx) (b : Byte) : (s.writeV x b).programLength = s.programLength := rfl
@[simp] theorem State.writeV_fault (s : State) (x : RegIdx) (b : Byte) : (s.writeV x b).fault = s.fault := rfl
@[simp] theorem State.writeV_draws (s : State) (x : RegIdx) (b : Byte) : (s.writeV x b).draws = s.draws := rfl

@[simp] theorem State.setI_v (s : State) (a : Word) : (s.setI a).v = s.v := rfl
@[simp] theorem State.setI_i (s : State) (a : Word) : (s.setI a).i = a := rfl
@[simp] theorem State.setI_pc (s : State) (a : Word) : (s.setI a).pc = s.pc := rfl
@[simp] theorem State.setI_stack (s : State) (a : Word) : (s.setI a).stack = s.stack := rfl
@[simp] theorem State.setI_sp (s : State) (a : Word) : (s.setI a).sp = s.sp := rfl
@[simp] theorem State.setI_mem (s : State) (a : Word) : (s.setI a).mem = s.mem := rfl
@[simp] theorem State.setI_fb (s : State) (a : Word) : (s.setI a).fb = s.fb := rfl
@[simp] theorem State.setI_lifecycle (s : State) (a : Word) : (s.setI a).lifecycle = s.lifecycle := rfl
@[simp] theorem State.setI_running (s : State) (a : Word) : (s.setI a).running = s.running := rfl
@[simp] theorem State.setI_ir (s : State) (a : Word) : (s.setI a).ir = s.ir := rfl
@[simp] theorem State.setI_programLength (s : State) (a : Word) : (s.setI a).programLength = s.programLength := rfl
@[simp] theorem State.setI_fault (s : State) (a : Word) : (s.setI a).fault = s.fault := rfl
@[simp] theorem State.setI_draws (s : State) (a : Word) : (s.setI a).draws = s.draws := rfl

@[simp] theorem State.setPc_v (s : State) (a : Word) : (s.setPc a).v = s.v := rfl
@[simp] theorem State.setPc_i (s : State) (a : Word) : (s.setPc a).i = s.i := rfl
@[simp] theorem State.setPc_pc (s : State) (a : Word) : (s.setPc a).pc = a := rfl
@[simp] theorem State.setPc_stack (s : State) (a : Word) : (s.setPc a).stack = s.stack := rfl
@[simp] theorem State.setPc_sp (s : State) (a : Word) : (s.setPc a).sp = s.sp := rfl
@[simp] theorem State.setPc_mem (s : State) (a : Word) : (s.setPc a).mem = s.mem := rfl
@[simp] theorem State.setPc_fb (s : State) (a : Word) : (s.setPc a).fb = s.fb := rfl
@[simp] theorem State.setPc_lifecycle (s : State) (a : Word) : (s.setPc a).lifecycle = s.lifecycle := rfl
@[simp] theorem State.setPc_running (s : State) (a : Word) : (s.setPc a).running = s.running := rfl
@[simp] theorem State.setPc_ir (s : State) (a : Word) : (s.setPc a).ir = s.ir := rfl
@[simp] theorem State.setPc_programLength (s : State) (a : Word) : (s.setPc a).programLength = s.programLength := rfl
@[simp] theorem State.setPc_fault (s : State) (a : Word) : (s.setPc a).fault = s.fault := rfl
@[simp] theorem State.setPc_draws (s : State) (a : Word) : (s.setPc a).draws = s.draws := rfl

@[simp] theorem State.advance_v (s : State) : (s.advance).v = s.v := rfl
@[simp] theorem State.advance_i (s : State) : (s.advance).i = s.i := rfl
@[simp] theorem State.advance_pc (s : State) : (s.advance).pc = s.pc + 2 := rfl
@[simp] theorem State.advance_stack (s : State) : (s.advance).stack = s.stack := rfl
@[simp] theorem State.advance_sp (s : State) : (s.advance).sp = s.sp := rfl
@[simp] theorem State.advance_mem (s : State) : (s.advance).mem = s.mem := rfl
@[simp] theorem State.advance_fb (s : State) : (s.advance).fb = s.fb := rfl
@[simp] theorem State.advance_lifecycle (s : State) : (s.advance).lifecycle = s.lifecycle := rfl
@[simp] theorem State.advance_running (s : State) : (s.advance).running = s.running := rfl
@[simp] theorem State.advance_ir (s : State) : (s.advance).ir = s.ir := rfl
@[simp] theorem State.advance_programLength (s : State) : (s.advance).programLength = s.programLength := rfl
@[simp] theorem State.advance_fault (s : State) : (s.advance).fault = s.fault := rfl
@[simp] theorem State.advance_draws (s : State) : (s.advance).draws = s.draws := rfl

@[simp] theorem State.pushReturn_v (s : State) (h : s.sp.val < Config.stackDepth) (ret : Word) : (s.pushReturn h ret).v = s.v := rfl
@[simp] theorem State.pushReturn_i (s : State) (h : s.sp.val < Config.stackDepth) (ret : Word) : (s.pushReturn h ret).i = s.i := rfl
@[simp] theorem State.pushReturn_pc (s : State) (h : s.sp.val < Config.stackDepth) (ret : Word) : (s.pushReturn h ret).pc = s.pc := rfl
@[simp] theorem State.pushReturn_stack (s : State) (h : s.sp.val < Config.stackDepth) (ret : Word) : (s.pushReturn h ret).stack = s.stack.set s.sp.val ret h := rfl
@[simp] theorem State.pushReturn_sp (s : State) (h : s.sp.val < Config.stackDepth) (ret : Word) : (s.pushReturn h ret).sp = ⟨s.sp.val + 1, Nat.succ_lt_succ h⟩ := rfl
@[simp] theorem State.pushReturn_mem (s : State) (h : s.sp.val < Config.stackDepth) (ret : Word) : (s.pushReturn h ret).mem = s.mem := rfl
@[simp] theorem State.pushReturn_fb (s : State) (h : s.sp.val < Config.stackDepth) (ret : Word) : (s.pushReturn h ret).fb = s.fb := rfl
@[simp] theorem State.pushReturn_lifecycle (s : State) (h : s.sp.val < Config.stackDepth) (ret : Word) : (s.pushReturn h ret).lifecycle = s.lifecycle := rfl
@[simp] theorem State.pushReturn_running (s : State) (h : s.sp.val < Config.stackDepth) (ret : Word) : (s.pushReturn h ret).running = s.running := rfl
@[simp] theorem State.pushReturn_ir (s : State) (h : s.sp.val < Config.stackDepth) (ret : Word) : (s.pushReturn h ret).ir = s.ir := rfl
@[simp] theorem State.pushReturn_programLength (s : State) (h : s.sp.val < Config.stackDepth) (ret : Word) : (s.pushReturn h ret).programLength = s.programLength := rfl
@[simp] theorem State.pushReturn_fault (s : State) (h : s.sp.val < Config.stackDepth) (ret : Word) : (s.pushReturn h ret).fault = s.fault := rfl
@[simp] theorem State.pushReturn_draws (s : State) (h : s.sp.val < Config.stackDepth) (ret : Word) : (s.pushReturn h ret).draws = s.draws := rfl

@[simp] theorem State.setFb_v (s : State) (f : Framebuffer) : (s.setFb f).v = s.v := rfl
@[simp] theorem State.setFb_i (s : State) (f : Framebuffer) : (s.setFb f).i = s.i := rfl
@[simp] theorem State.setFb_pc (s : State) (f : Framebuffer) : (s.setFb f).pc = s.pc := rfl
@[simp] theorem State.setFb_stack (s : State) (f : Framebuffer) : (s.setFb f).stack = s.stack := rfl
@[simp] theorem State.setFb_sp (s : State) (f : Framebuffer) : (s.setFb f).sp = s.sp := rfl
@[simp] theorem State.setFb_mem (s : State) (f : Framebuffer) : (s.setFb f).mem = s.mem := rfl
@[simp] theorem State.setFb_fb (s : State) (f : Framebuffer) : (s.setFb f).fb = f := rfl
@[simp] theorem State.setFb_lifecycle (s : State) (f : Framebuffer) : (s.setFb f).lifecycle = s.lifecycle := rfl
@[simp] theorem State.setFb_running (s : State) (f : Framebuffer) : (s.setFb f).running = s.running := rfl
@[simp] theorem State.setFb_ir (s : State) (f : Framebuffer) : (s.setFb f).ir = s.ir := rfl
@[simp] theorem State.setFb_programLength (s : State) (f : Framebuffer) : (s.setFb f).programLength = s.programLength := rfl
@[simp] theorem State.setFb_fault (s : State) (f : Framebuffer) : (s.setFb f).fault = s.fault := rfl
@[simp] theorem State.setFb_draws (s : State) (f : Framebuffer) : (s.setFb f).draws = s.draws := rfl

@[simp] theorem State.draw8_v (s : State) : (s.draw8.2).v = s.v := rfl
@[simp] theorem State.draw8_i (s : State) : (s.draw8.2).i = s.i := rfl
@[simp] theorem State.draw8_pc (s : State) : (s.draw8.2).pc = s.pc := rfl
@[simp] theorem State.draw8_stack (s : State) : (s.draw8.2).stack = s.stack := rfl
@[simp] theorem State.draw8_sp (s : State) : (s.draw8.2).sp = s.sp := rfl
@[simp] theorem State.draw8_mem (s : State) : (s.draw8.2).mem = s.mem := rfl
@[simp] theorem State.draw8_fb (s : State) : (s.draw8.2).fb = s.fb := rfl
@[simp] theorem State.draw8_lifecycle (s : State) : (s.draw8.2).lifecycle = s.lifecycle := rfl
@[simp] theorem State.draw8_running (s : State) : (s.draw8.2).running = s.running := rfl
@[simp] theorem State.draw8_ir (s : State) : (s.draw8.2).ir = s.ir := rfl
@[simp] theorem State.draw8_programLength (s : State) : (s.draw8.2).programLength = s.programLength := rfl
@[simp] theorem State.draw8_fault (s : State) : (s.draw8.2).fault = s.fault := rfl
@[simp] theorem State.draw8_draws (s : State) : (s.draw8.2).draws = s.draws + 1 := rfl

@[simp] theorem State.latchIr_v (s : State) (w : Word) : (s.latchIr w).v = s.v := rfl
@[simp] theorem State.latchIr_i (s : State) (w : Word) : (s.latchIr w).i = s.i := rfl
@[simp] theorem State.latchIr_pc (s : State) (w : Word) : (s.latchIr w).pc = s.pc := rfl
@[simp] theorem State.latchIr_stack (s : State) (w : Word) : (s.latchIr w).stack = s.stack := rfl
@[simp] theorem State.latchIr_sp (s : State) (w : Word) : (s.latchIr w).sp = s.sp := rfl
@[simp] theorem State.latchIr_mem (s : State) (w : Word) : (s.latchIr w).mem = s.mem := rfl
@[simp] theorem State.latchIr_fb (s : State) (w : Word) : (s.latchIr w).fb = s.fb := rfl
@[simp] theorem State.latchIr_lifecycle (s : State) (w : Word) : (s.latchIr w).lifecycle = s.lifecycle := rfl
@[simp] theorem State.latchIr_running (s : State) (w : Word) : (s.latchIr w).running = s.running := rfl
@[simp] theorem State.latchIr_ir (s : State) (w : Word) : (s.latchIr w).ir = w := rfl
@[simp] theorem State.latchIr_programLength (s : State) (w : Word) : (s.latchIr w).programLength = s.programLength := rfl
@[simp] theorem State.latchIr_fault (s : State) (w : Word) : (s.latchIr w).fault = s.fault := rfl
@[simp] theorem State.latchIr_draws (s : State) (w : Word) : (s.latchIr w).draws = s.draws := rfl

@[simp] theorem State.raise_v (s : State) (r : FaultRecord) : (s.raise r).v = s.v := rfl
@[simp] theorem State.raise_i (s : State) (r : FaultRecord) : (s.raise r).i = s.i := rfl
@[simp] theorem State.raise_pc (s : State) (r : FaultRecord) : (s.raise r).pc = s.pc := rfl
@[simp] theorem State.raise_stack (s : State) (r : FaultRecord) : (s.raise r).stack = s.stack := rfl
@[simp] theorem State.raise_sp (s : State) (r : FaultRecord) : (s.raise r).sp = s.sp := rfl
@[simp] theorem State.raise_mem (s : State) (r : FaultRecord) : (s.raise r).mem = s.mem := rfl
@[simp] theorem State.raise_fb (s : State) (r : FaultRecord) : (s.raise r).fb = s.fb := rfl
@[simp] theorem State.raise_lifecycle (s : State) (r : FaultRecord) : (s.raise r).lifecycle = .faulted := rfl
@[simp] theorem State.raise_running (s : State) (r : FaultRecord) : (s.raise r).running = Config.runningAfterFault s.draws := rfl
@[simp] theorem State.raise_ir (s : State) (r : FaultRecord) : (s.raise r).ir = s.ir := rfl
@[simp] theorem State.raise_programLength (s : State) (r : FaultRecord) : (s.raise r).programLength = s.programLength := rfl
@[simp] theorem State.raise_fault (s : State) (r : FaultRecord) : (s.raise r).fault = r := rfl
@[simp] theorem State.raise_draws (s : State) (r : FaultRecord) : (s.raise r).draws = s.draws + 1 := rfl

@[simp] theorem State.writeVThenFlag_v (s : State) (x : RegIdx) (b f : Byte) :
    (s.writeVThenFlag x b f).v = (s.v.set x.toNat b x.isLt).set vf.toNat f vf.isLt := rfl
@[simp] theorem State.writeVThenFlag_i (s : State) (x : RegIdx) (b f : Byte) :
    (s.writeVThenFlag x b f).i = s.i := rfl
@[simp] theorem State.writeVThenFlag_pc (s : State) (x : RegIdx) (b f : Byte) :
    (s.writeVThenFlag x b f).pc = s.pc := rfl
@[simp] theorem State.writeVThenFlag_stack (s : State) (x : RegIdx) (b f : Byte) :
    (s.writeVThenFlag x b f).stack = s.stack := rfl
@[simp] theorem State.writeVThenFlag_sp (s : State) (x : RegIdx) (b f : Byte) :
    (s.writeVThenFlag x b f).sp = s.sp := rfl
@[simp] theorem State.writeVThenFlag_mem (s : State) (x : RegIdx) (b f : Byte) :
    (s.writeVThenFlag x b f).mem = s.mem := rfl
@[simp] theorem State.writeVThenFlag_fb (s : State) (x : RegIdx) (b f : Byte) :
    (s.writeVThenFlag x b f).fb = s.fb := rfl
@[simp] theorem State.writeVThenFlag_lifecycle (s : State) (x : RegIdx) (b f : Byte) :
    (s.writeVThenFlag x b f).lifecycle = s.lifecycle := rfl
@[simp] theorem State.writeVThenFlag_running (s : State) (x : RegIdx) (b f : Byte) :
    (s.writeVThenFlag x b f).running = s.running := rfl
@[simp] theorem State.writeVThenFlag_ir (s : State) (x : RegIdx) (b f : Byte) :
    (s.writeVThenFlag x b f).ir = s.ir := rfl
@[simp] theorem State.writeVThenFlag_programLength (s : State) (x : RegIdx) (b f : Byte) :
    (s.writeVThenFlag x b f).programLength = s.programLength := rfl
@[simp] theorem State.writeVThenFlag_fault (s : State) (x : RegIdx) (b f : Byte) :
    (s.writeVThenFlag x b f).fault = s.fault := rfl
@[simp] theorem State.writeVThenFlag_draws (s : State) (x : RegIdx) (b f : Byte) :
    (s.writeVThenFlag x b f).draws = s.draws := rfl

@[simp] theorem State.skipIf_pc (s : State) (c : Bool) :
    (s.skipIf c).pc = if c then s.pc + 4 else s.pc + 2 := by cases c <;> rfl
@[simp] theorem State.skipIf_v (s : State) (c : Bool) : (s.skipIf c).v = s.v := by cases c <;> rfl
@[simp] theorem State.skipIf_i (s : State) (c : Bool) : (s.skipIf c).i = s.i := by cases c <;> rfl
@[simp] theorem State.skipIf_stack (s : State) (c : Bool) : (s.skipIf c).stack = s.stack := by cases c <;> rfl
@[simp] theorem State.skipIf_sp (s : State) (c : Bool) : (s.skipIf c).sp = s.sp := by cases c <;> rfl
@[simp] theorem State.skipIf_mem (s : State) (c : Bool) : (s.skipIf c).mem = s.mem := by cases c <;> rfl
@[simp] theorem State.skipIf_fb (s : State) (c : Bool) : (s.skipIf c).fb = s.fb := by cases c <;> rfl
@[simp] theorem State.skipIf_lifecycle (s : State) (c : Bool) : (s.skipIf c).lifecycle = s.lifecycle := by cases c <;> rfl
@[simp] theorem State.skipIf_running (s : State) (c : Bool) : (s.skipIf c).running = s.running := by cases c <;> rfl
@[simp] theorem State.skipIf_ir (s : State) (c : Bool) : (s.skipIf c).ir = s.ir := by cases c <;> rfl
@[simp] theorem State.skipIf_programLength (s : State) (c : Bool) : (s.skipIf c).programLength = s.programLength := by cases c <;> rfl
@[simp] theorem State.skipIf_fault (s : State) (c : Bool) : (s.skipIf c).fault = s.fault := by cases c <;> rfl
@[simp] theorem State.skipIf_draws (s : State) (c : Bool) : (s.skipIf c).draws = s.draws := by cases c <;> rfl

@[simp] theorem State.draw8_fst (s : State) : s.draw8.1 = Config.drawByte s.draws := rfl

/-- A host reset is the reset state but for the model's own count (R118). -/
@[simp] theorem State.hostReset_v (s : State) : (s.hostReset).v = State.reset.v := rfl
@[simp] theorem State.hostReset_i (s : State) : (s.hostReset).i = State.reset.i := rfl
@[simp] theorem State.hostReset_pc (s : State) : (s.hostReset).pc = State.reset.pc := rfl
@[simp] theorem State.hostReset_stack (s : State) : (s.hostReset).stack = State.reset.stack := rfl
@[simp] theorem State.hostReset_sp (s : State) : (s.hostReset).sp = State.reset.sp := rfl
@[simp] theorem State.hostReset_mem (s : State) : (s.hostReset).mem = State.reset.mem := rfl
@[simp] theorem State.hostReset_fb (s : State) : (s.hostReset).fb = State.reset.fb := rfl
@[simp] theorem State.hostReset_lifecycle (s : State) : (s.hostReset).lifecycle = State.reset.lifecycle := rfl
@[simp] theorem State.hostReset_running (s : State) : (s.hostReset).running = State.reset.running := rfl
@[simp] theorem State.hostReset_ir (s : State) : (s.hostReset).ir = State.reset.ir := rfl
@[simp] theorem State.hostReset_programLength (s : State) : (s.hostReset).programLength = State.reset.programLength := rfl
@[simp] theorem State.hostReset_fault (s : State) : (s.hostReset).fault = State.reset.fault := rfl
@[simp] theorem State.hostReset_draws (s : State) : (s.hostReset).draws = s.draws := rfl

end Sys2Proof.Machine
end

