-- ==== Sys2Proof/Laws/Registers.lean ====
section
/-!
SUPPORT. The data registers: a read after a write, and the two writes of a flag-writing instruction.
-/

namespace Sys2Proof.Machine

/-- A read after a write: the value written in its register, every other register as before. -/
theorem State.readV_writeV (s : State) (x : RegIdx) (b : Byte) (r : RegIdx) :
    (s.writeV x b).readV r = if r = x then b else s.readV r := by
  unfold State.readV State.writeV
  by_cases h : r = x
  · subst h; simp
  · have hne : x.toNat ≠ r.toNat := fun e => h (BitVec.eq_of_toNat_eq e).symm
    simp [h, Vector.getElem_set_ne, hne]

/-- The flag survives in `VF`, whichever register the destination is (R17). -/
theorem State.readV_writeVThenFlag (s : State) (x : RegIdx) (b f : Byte) (r : RegIdx) :
    (s.writeVThenFlag x b f).readV r = if r = vf then f else if r = x then b else s.readV r := by
  unfold State.writeVThenFlag
  rw [State.readV_writeV, State.readV_writeV]

/-- A state update that keeps the registers keeps every read of them. -/
theorem State.readV_congr {s t : State} (h : t.v = s.v) (r : RegIdx) : t.readV r = s.readV r := by
  unfold State.readV; simp [h]

@[simp] theorem State.readV_setPc (s : State) (a : Word) (r : RegIdx) :
    (s.setPc a).readV r = s.readV r := rfl
@[simp] theorem State.readV_advance (s : State) (r : RegIdx) : s.advance.readV r = s.readV r := rfl
@[simp] theorem State.readV_skipIf (s : State) (c : Bool) (r : RegIdx) :
    (s.skipIf c).readV r = s.readV r := State.readV_congr (by simp) r
@[simp] theorem State.readV_setI (s : State) (a : Word) (r : RegIdx) :
    (s.setI a).readV r = s.readV r := rfl
@[simp] theorem State.readV_pushReturn (s : State) (h : s.sp.val < Config.stackDepth) (a : Word)
    (r : RegIdx) : (s.pushReturn h a).readV r = s.readV r := rfl
@[simp] theorem State.readV_setFb (s : State) (f : Framebuffer) (r : RegIdx) :
    (s.setFb f).readV r = s.readV r := rfl
@[simp] theorem State.readV_draw8 (s : State) (r : RegIdx) : s.draw8.2.readV r = s.readV r := rfl
@[simp] theorem State.readV_latchIr (s : State) (w : Word) (r : RegIdx) :
    (s.latchIr w).readV r = s.readV r := rfl
@[simp] theorem State.readV_raise (s : State) (f : FaultRecord) (r : RegIdx) :
    (s.raise f).readV r = s.readV r := rfl

end Sys2Proof.Machine
end

