-- ==== Sys2Proof/Laws/Frames.lean ====
section
/-!
SUPPORT. Frames from equal fields: an update that keeps the fields keeps what the frames of Safety.lean say.
-/

namespace Sys2Proof.Machine

theorem SameMemory.of_mem {s t : State} (h : t.mem = s.mem) : SameMemory s t := fun _ => by rw [h]

theorem SameScreen.of_fb {s t : State} (h : t.fb = s.fb) : SameScreen s t := fun _ _ => by
  unfold State.pixel; rw [h]

theorem SameStack.of_eq {s t : State} (hp : t.sp = s.sp) (hs : t.stack = s.stack) : SameStack s t :=
  ⟨hp, fun _ => by simp [hs]⟩

theorem SameRegistersBut.of_v {s t : State} (h : t.v = s.v) (written : RegIdx → Prop) :
    SameRegistersBut written s t := fun r _ => State.readV_congr h r

/-- The fields a `RegisterFrame` covers, all equal. -/
theorem RegisterFrame.of_eq {s t : State} (hi : t.i = s.i) (hs : t.stack = s.stack) (hp : t.sp = s.sp)
    (hm : t.mem = s.mem) (hf : t.fb = s.fb) (hb : SameBookkeeping s t) (hd : t.draws = s.draws) :
    RegisterFrame s t :=
  ⟨hi, .of_eq hp hs, .of_mem hm, .of_fb hf, hb, hd⟩

/-- An update of registers and `PC` alone keeps the register frame. -/
theorem RegisterFrame.of_update (s : State) (v : Vector Byte 16) (pc : Word) :
    RegisterFrame s { s with v := v, pc := pc } :=
  .of_eq rfl rfl rfl rfl rfl ⟨rfl, rfl, rfl, rfl, rfl⟩ rfl

/-- An update of `PC` alone keeps the frame. -/
theorem PcFrame.of_pc (s : State) (pc : Word) : PcFrame s { s with pc := pc } :=
  ⟨.of_v rfl _, .of_update s s.v pc⟩

/-- Raising a core fault leaves exactly what `FaultTaken` says (60_exceptions.md R98). -/
theorem State.raise_faultTaken (s : State) (record : FaultRecord) : FaultTaken record s (s.raise record) :=
  ⟨.of_v rfl _, rfl, rfl, .of_eq rfl rfl, .of_mem rfl, .of_fb rfl, rfl, rfl, rfl, rfl⟩

end Sys2Proof.Machine
end

