-- ==== Sys2Proof/Laws/Memory.lean ====
section
/-!
SUPPORT. The laws of memory: every operation keeps the canonical form, a read after a write, and that
canonical memories with the same bytes are the same data.
-/

namespace Sys2Proof.Machine

@[simp] theorem Memory.readByte_nil (a : Nat) : Memory.readByte [] a = 0 := rfl

theorem Memory.readByte_cons (cell : Host.Cell) (rest : Memory) (a : Nat) :
    Memory.readByte (cell :: rest) a = if cell.1 = a then cell.2 else Memory.readByte rest a := rfl

theorem Memory.readByte_consCell (a : Nat) (b : Byte) (rest : Memory) (k : Nat) :
    Memory.readByte (Memory.consCell a b rest) k =
      if a = k then (if b = 0 then Memory.readByte rest k else b) else Memory.readByte rest k := by
  unfold Memory.consCell
  split_ifs with hb hk hk
  · rfl
  · rfl
  · exact if_pos hk
  · exact if_neg hk

theorem Memory.canonicalFrom_cons {low : Nat} {cell : Host.Cell} {rest : Memory} :
    Memory.canonicalFrom low (cell :: rest) = true ↔
      low ≤ cell.1 ∧ cell.1 < 4096 ∧ cell.2 ≠ 0 ∧ Memory.canonicalFrom (cell.1 + 1) rest = true := by
  simp [Memory.canonicalFrom, and_assoc]

theorem Memory.canonicalFrom_mono {low low' : Nat} (h : low' ≤ low) {m : Memory}
    (hm : Memory.canonicalFrom low m = true) : Memory.canonicalFrom low' m = true := by
  cases m with
  | nil => rfl
  | cons cell rest =>
    rw [Memory.canonicalFrom_cons] at hm ⊢
    exact ⟨h.trans hm.1, hm.2⟩

/-- Below its lower bound a canonical memory lists nothing. -/
theorem Memory.readByte_below {low : Nat} {m : Memory} (hm : Memory.canonicalFrom low m = true)
    {a : Nat} (ha : a < low) : Memory.readByte m a = 0 := by
  induction m generalizing low with
  | nil => rfl
  | cons cell rest ih =>
    rw [Memory.canonicalFrom_cons] at hm
    rw [Memory.readByte_cons, if_neg (by omega)]
    exact ih hm.2.2.2 (by omega)

/-- At and above the end of memory a canonical memory lists nothing. -/
theorem Memory.readByte_beyond {low : Nat} {m : Memory} (hm : Memory.canonicalFrom low m = true)
    {a : Nat} (ha : 4096 ≤ a) : Memory.readByte m a = 0 := by
  induction m generalizing low with
  | nil => rfl
  | cons cell rest ih =>
    rw [Memory.canonicalFrom_cons] at hm
    rw [Memory.readByte_cons, if_neg (by omega)]
    exact ih hm.2.2.2

theorem Memory.canonicalFrom_consCell {low a : Nat} {b : Byte} {rest : Memory} (hl : low ≤ a)
    (ha : a < 4096) (hr : Memory.canonicalFrom (a + 1) rest = true) :
    Memory.canonicalFrom low (Memory.consCell a b rest) = true := by
  unfold Memory.consCell
  split
  · exact Memory.canonicalFrom_mono (by omega) hr
  · exact Memory.canonicalFrom_cons.2 ⟨hl, ha, ‹_›, hr⟩

theorem Memory.canonicalFrom_putByte {low a : Nat} {b : Byte} {m : Memory} (hl : low ≤ a)
    (ha : a < 4096) (hm : Memory.canonicalFrom low m = true) :
    Memory.canonicalFrom low (Memory.putByte a b m) = true := by
  induction m generalizing low with
  | nil => exact Memory.canonicalFrom_consCell hl ha rfl
  | cons cell rest ih =>
    obtain ⟨h1, h2, h3, h4⟩ := Memory.canonicalFrom_cons.1 hm
    rw [Memory.putByte]
    split
    · exact Memory.canonicalFrom_cons.2 ⟨h1, h2, h3, ih (by omega) h4⟩
    · split
      · exact Memory.canonicalFrom_consCell hl ha (Memory.canonicalFrom_mono (by omega) h4)
      · exact Memory.canonicalFrom_consCell hl ha
          (Memory.canonicalFrom_cons.2 ⟨by omega, h2, h3, h4⟩)

theorem Memory.readByte_putByte {low a : Nat} {b : Byte} {m : Memory}
    (hm : Memory.canonicalFrom low m = true) (k : Nat) :
    Memory.readByte (Memory.putByte a b m) k = if a = k then b else Memory.readByte m k := by
  induction m generalizing low with
  | nil =>
    rw [Memory.putByte, Memory.readByte_consCell, Memory.readByte_nil]
    split_ifs with hk hb
    · exact hb.symm
    · rfl
    · rfl
  | cons cell rest ih =>
    obtain ⟨h1, h2, h3, h4⟩ := Memory.canonicalFrom_cons.1 hm
    rw [Memory.putByte]
    split
    · rw [Memory.readByte_cons, Memory.readByte_cons, ih h4]
      split_ifs <;> first | rfl | omega
    · have hbelow : a = k → b = 0 → Memory.readByte rest k = 0 := fun hk _ =>
        Memory.readByte_below h4 (by omega)
      split
      · rw [Memory.readByte_consCell, Memory.readByte_cons]
        split_ifs <;> first | rfl | omega | simp_all
      · rw [Memory.readByte_consCell, Memory.readByte_cons]
        split_ifs <;> first | rfl | omega | simp_all

/-- Every write keeps the canonical form. -/
theorem Memory.writeByte_wf {m : Memory} (hm : m.wf = true) (a : Nat) (b : Byte) :
    (m.writeByte a b).wf = true := by
  unfold Memory.writeByte
  split
  · exact Memory.canonicalFrom_putByte (Nat.zero_le _) ‹_› hm
  · exact hm

/-- A read after a write: the byte written, at an address that exists, and every other byte as before. -/
theorem Memory.readByte_writeByte {m : Memory} (hm : m.wf = true) (a : Nat) (b : Byte) (k : Nat) :
    (m.writeByte a b).readByte k = if a = k ∧ a < 4096 then b else m.readByte k := by
  unfold Memory.writeByte
  by_cases ha : a < 4096
  · simp only [ha, if_true, and_true, Memory.readByte_putByte hm]
  · simp [ha]

/-- A sequence of writes keeps the canonical form. -/
theorem Memory.writeBytes_wf {m : Memory} (hm : m.wf = true) (a : Nat) (bs : List Byte) :
    (m.writeBytes a bs).wf = true := by
  induction bs generalizing m a with
  | nil => exact hm
  | cons b rest ih => exact ih (Memory.writeByte_wf hm a b) (a + 1)

/-- The empty memory is canonical. -/
theorem Memory.wf_nil : Memory.wf [] = true := rfl

/-- Canonical memories that read the same everywhere are the same data. -/
theorem Memory.ext_of_canonicalFrom {low : Nat} {m m' : Memory}
    (hm : Memory.canonicalFrom low m = true) (hm' : Memory.canonicalFrom low m' = true)
    (h : ∀ a, m.readByte a = m'.readByte a) : m = m' := by
  induction m generalizing low m' with
  | nil =>
    cases m' with
    | nil => rfl
    | cons c r =>
      obtain ⟨_, _, h3, _⟩ := Memory.canonicalFrom_cons.1 hm'
      exact absurd (by simpa [Memory.readByte_cons] using (h c.1).symm) h3
  | cons c r ih =>
    obtain ⟨h1, h2, h3, h4⟩ := Memory.canonicalFrom_cons.1 hm
    have hc : m'.readByte c.1 = c.2 := by simpa [Memory.readByte_cons] using (h c.1).symm
    cases m' with
    | nil => exact absurd hc.symm h3
    | cons c' r' =>
      obtain ⟨k1, k2, k3, k4⟩ := Memory.canonicalFrom_cons.1 hm'
      have hc' : Memory.readByte (c :: r) c'.1 = c'.2 := by
        simpa [Memory.readByte_cons] using h c'.1
      have haddr : c.1 = c'.1 := by
        by_contra hne
        rcases Nat.lt_or_gt_of_ne hne with hlt | hgt
        · rw [Memory.readByte_cons, if_neg (by omega), Memory.readByte_below k4 (by omega)] at hc
          exact h3 hc.symm
        · rw [Memory.readByte_cons, if_neg (by omega), Memory.readByte_below h4 (by omega)] at hc'
          exact k3 hc'.symm
      have hbyte : c.2 = c'.2 := by
        rw [Memory.readByte_cons, if_pos haddr.symm] at hc
        exact hc.symm
      have hcell : c = c' := Prod.ext haddr hbyte
      subst hcell
      refine congrArg (c :: ·) (ih h4 k4 fun a => ?_)
      by_cases ha : a < c.1 + 1
      · rw [Memory.readByte_below h4 ha, Memory.readByte_below k4 ha]
      · simpa [Memory.readByte_cons, show ¬ c.1 = a by omega] using h a

/-- Reading after a byte sequence is written within memory: the bytes of the sequence where it lies, the old
bytes elsewhere (70_reset_and_hazards.md R122). -/
theorem Memory.readByte_writeBytes {m : Memory} (hm : m.wf = true) (a : Nat) (bs : List Byte)
    (hb : a + bs.length ≤ 4096) (k : Nat) :
    (m.writeBytes a bs).readByte k =
      if h : a ≤ k ∧ k < a + bs.length then bs[k - a]'(by omega) else m.readByte k := by
  induction bs generalizing m a with
  | nil => simp [Memory.writeBytes]
  | cons b rest ih =>
    simp only [List.length_cons] at hb
    rw [Memory.writeBytes, ih (Memory.writeByte_wf hm a b) (a + 1) (by omega),
      Memory.readByte_writeByte hm]
    by_cases h1 : a + 1 ≤ k ∧ k < a + 1 + rest.length
    · have h2 : a ≤ k ∧ k < a + (b :: rest).length := by simp; omega
      simp only [h1, h2, and_self, dif_pos]
      rw [List.getElem_cons]
      simp [show ¬ (k - a = 0) by omega, Nat.sub_sub]
    · rw [dif_neg h1]
      by_cases h2 : a = k
      · subst h2; simp; omega
      · have h3 : ¬ (a ≤ k ∧ k < a + (b :: rest).length) := by simp; omega
        simp [h2]; omega

end Sys2Proof.Machine
end

