-- ==== Sys2Proof/Laws/Host.lean ====
section
/-!
SUPPORT. What the host's commands can do.
-/

namespace Sys2Proof.Machine

/-- A load either writes memory and `programLength`, or is refused and changes nothing (R122). -/
theorem loadProgram_cases (p : ProgramImage) (s : State) :
    (p.origin + p.bytes.length ≤ 4096 ∧
        loadProgram p s = .quiet { s with
          mem := s.mem.writeBytes p.origin p.bytes, programLength := p.bytes.length }) ∨
      (4096 < p.origin + p.bytes.length ∧
        loadProgram p s =
          { state := s, events := [], error := some .loadOutOfRange, loopAgain := false }) := by
  unfold loadProgram ProgramImage.wellFormed
  by_cases h : p.origin + p.bytes.length ≤ 4096
  · exact .inl ⟨h, by simp [h]⟩
  · exact .inr ⟨by omega, by simp [h]⟩

@[simp] theorem HostResult.quiet_state (s : State) : (HostResult.quiet s).state = s := rfl
@[simp] theorem HostResult.quiet_events (s : State) : (HostResult.quiet s).events = [] := rfl
@[simp] theorem HostResult.quiet_error (s : State) : (HostResult.quiet s).error = none := rfl
@[simp] theorem HostResult.quiet_loopAgain (s : State) : (HostResult.quiet s).loopAgain = false := rfl

/-- A load without an origin goes to 0x200 (60_exceptions.md R114). -/
@[simp] theorem loadOrigin_none : loadOrigin none = 0x200 := rfl

@[simp] theorem loadOrigin_some (origin : Nat) : loadOrigin (some origin) = origin := rfl

/-- A `run` whose image does not fit leaves the reset state and the load's error (R124, R127). -/
theorem hostRun_overlong {bytes : List Byte} {s : State}
    (h : ProgramImage.wellFormed ⟨bytes, Config.origin⟩ = false) (hs : s.lifecycle ≠ .running) :
    hostAction (.run bytes) s = .done
      { state := s.hostReset, events := [], error := some .loadOutOfRange, loopAgain := false } := by
  simp only [hostAction, hostActionBy, hostRun, loadProgram, if_neg hs, h]
  rfl

end Sys2Proof.Machine
end

