-- ==== Sys2Proof/Laws/Operands.lean ====
section
/-!
SUPPORT. The bounds and the flags as arithmetic on natural numbers.
-/

namespace Sys2Proof.Machine

/-- Both bytes at `PC` lie in memory exactly when `PC < 0xFFF` (R55). -/
theorem State.canFetch_iff (s : State) : s.canFetch = true ↔ s.pc.toNat < 4095 := by
  simp only [State.canFetch, Config.memSize, decide_eq_true_eq]
  omega

theorem State.canFetch_eq_false_iff (s : State) : s.canFetch = false ↔ 4095 ≤ s.pc.toNat := by
  simp only [State.canFetch, Config.memSize, decide_eq_false_iff_not]
  omega

/-- The halting condition (70_reset_and_hazards.md R126). -/
theorem State.atHalt_iff (s : State) : s.atHalt = true ↔ 4096 ≤ s.pc.toNat := by
  simp [State.atHalt, Config.memSize]

/-- The bound of DXYN (44_draw.md R87). -/
theorem spriteInBounds_iff (base : Word) (n : Nibble) :
    spriteInBounds base n = true ↔ n.toNat = 0 ∨ base.toNat + n.toNat - 1 < 4096 := by
  simp [spriteInBounds, Config.memSize]

theorem spriteInBounds_eq_false_iff (base : Word) (n : Nibble) :
    spriteInBounds base n = false ↔ 0 < n.toNat ∧ 4096 ≤ base.toNat + n.toNat - 1 := by
  simp only [spriteInBounds, Config.memSize, decide_eq_false_iff_not]
  omega

theorem zextAddr_toNat (nnn : Addr) : (zextAddr nnn).toNat = nnn.toNat := by
  have := nnn.isLt
  simp only [zextAddr, BitVec.toNat_setWidth]
  omega

/-- The offset jump's sum is exact (40_control_flow.md R72). -/
theorem offsetTarget_toNat (nnn : Addr) (b : Byte) :
    (offsetTarget nnn b).toNat = nnn.toNat + b.toNat := by
  have := nnn.isLt
  have := b.isLt
  simp only [offsetTarget, zextAddr, zextByte, BitVec.toNat_add, BitVec.toNat_setWidth]
  omega

theorem flagByte_true : flagByte true = 1 := rfl
theorem flagByte_false : flagByte false = 0 := rfl

end Sys2Proof.Machine
end

