-- ==== Sys2Proof/Laws/PerInstr.lean ====
section
/-!
SUPPORT. Per instruction: the encoding of an instruction lies in its own row of the opcode table.
-/

namespace Sys2Proof.Laws.RowHoldsEncoding

/-- The instruction is well-formed, and the row of its mnemonic is in the table and holds its encoding. -/
def Statement (i : Instr) : Prop :=
  i.wellFormed = true ∧ ∃ r ∈ opcodeTable, r.mnemonic = i.mnemonic ∧ r.holds (encode i) = true

theorem jp (nnn : Addr) : Statement (.jp nnn) :=
  ⟨Instr.wellFormed_eq_true _, ⟨.jp, 0x1000, 0xF000⟩, by decide, rfl,
    OpcodeRow.holds_of_mask (formatA_mask 1 nnn) rfl⟩

theorem call (nnn : Addr) : Statement (.call nnn) :=
  ⟨Instr.wellFormed_eq_true _, ⟨.call, 0x2000, 0xF000⟩, by decide, rfl,
    OpcodeRow.holds_of_mask (formatA_mask 2 nnn) rfl⟩

theorem seImm (x : RegIdx) (nn : Byte) : Statement (.seImm x nn) :=
  ⟨Instr.wellFormed_eq_true _, ⟨.seImm, 0x3000, 0xF000⟩, by decide, rfl,
    OpcodeRow.holds_of_mask (formatB_mask 3 x nn) rfl⟩

theorem sneImm (x : RegIdx) (nn : Byte) : Statement (.sneImm x nn) :=
  ⟨Instr.wellFormed_eq_true _, ⟨.sneImm, 0x4000, 0xF000⟩, by decide, rfl,
    OpcodeRow.holds_of_mask (formatB_mask 4 x nn) rfl⟩

theorem seReg (x : RegIdx) (y : RegIdx) (n : Nibble) : Statement (.seReg x y n) :=
  ⟨Instr.wellFormed_eq_true _, ⟨.seReg, 0x5000, 0xF000⟩, by decide, rfl,
    OpcodeRow.holds_of_mask (formatC_mask 5 x y n) rfl⟩

theorem ldImm (x : RegIdx) (nn : Byte) : Statement (.ldImm x nn) :=
  ⟨Instr.wellFormed_eq_true _, ⟨.ldImm, 0x6000, 0xF000⟩, by decide, rfl,
    OpcodeRow.holds_of_mask (formatB_mask 6 x nn) rfl⟩

theorem addImm (x : RegIdx) (nn : Byte) : Statement (.addImm x nn) :=
  ⟨Instr.wellFormed_eq_true _, ⟨.addImm, 0x7000, 0xF000⟩, by decide, rfl,
    OpcodeRow.holds_of_mask (formatB_mask 7 x nn) rfl⟩

theorem ldReg (x : RegIdx) (y : RegIdx) : Statement (.ldReg x y) :=
  ⟨Instr.wellFormed_eq_true _, ⟨.ldReg, 0x8000, 0xF00F⟩, by decide, rfl,
    OpcodeRow.holds_of_mask (formatC_mask_sub 8 x y _) rfl⟩

theorem orReg (x : RegIdx) (y : RegIdx) : Statement (.orReg x y) :=
  ⟨Instr.wellFormed_eq_true _, ⟨.orReg, 0x8001, 0xF00F⟩, by decide, rfl,
    OpcodeRow.holds_of_mask (formatC_mask_sub 8 x y _) rfl⟩

theorem andReg (x : RegIdx) (y : RegIdx) : Statement (.andReg x y) :=
  ⟨Instr.wellFormed_eq_true _, ⟨.andReg, 0x8002, 0xF00F⟩, by decide, rfl,
    OpcodeRow.holds_of_mask (formatC_mask_sub 8 x y _) rfl⟩

theorem xorReg (x : RegIdx) (y : RegIdx) : Statement (.xorReg x y) :=
  ⟨Instr.wellFormed_eq_true _, ⟨.xorReg, 0x8003, 0xF00F⟩, by decide, rfl,
    OpcodeRow.holds_of_mask (formatC_mask_sub 8 x y _) rfl⟩

theorem addReg (x : RegIdx) (y : RegIdx) : Statement (.addReg x y) :=
  ⟨Instr.wellFormed_eq_true _, ⟨.addReg, 0x8004, 0xF00F⟩, by decide, rfl,
    OpcodeRow.holds_of_mask (formatC_mask_sub 8 x y _) rfl⟩

theorem sub (x : RegIdx) (y : RegIdx) : Statement (.sub x y) :=
  ⟨Instr.wellFormed_eq_true _, ⟨.sub, 0x8005, 0xF00F⟩, by decide, rfl,
    OpcodeRow.holds_of_mask (formatC_mask_sub 8 x y _) rfl⟩

theorem shr (x : RegIdx) (y : RegIdx) : Statement (.shr x y) :=
  ⟨Instr.wellFormed_eq_true _, ⟨.shr, 0x8006, 0xF00F⟩, by decide, rfl,
    OpcodeRow.holds_of_mask (formatC_mask_sub 8 x y _) rfl⟩

theorem nop87 (x : RegIdx) (y : RegIdx) : Statement (.nop87 x y) :=
  ⟨Instr.wellFormed_eq_true _, ⟨.nop87, 0x8007, 0xF00F⟩, by decide, rfl,
    OpcodeRow.holds_of_mask (formatC_mask_sub 8 x y _) rfl⟩

theorem nop88 (x : RegIdx) (y : RegIdx) : Statement (.nop88 x y) :=
  ⟨Instr.wellFormed_eq_true _, ⟨.nop88, 0x8008, 0xF00F⟩, by decide, rfl,
    OpcodeRow.holds_of_mask (formatC_mask_sub 8 x y _) rfl⟩

theorem nop89 (x : RegIdx) (y : RegIdx) : Statement (.nop89 x y) :=
  ⟨Instr.wellFormed_eq_true _, ⟨.nop89, 0x8009, 0xF00F⟩, by decide, rfl,
    OpcodeRow.holds_of_mask (formatC_mask_sub 8 x y _) rfl⟩

theorem nop8A (x : RegIdx) (y : RegIdx) : Statement (.nop8A x y) :=
  ⟨Instr.wellFormed_eq_true _, ⟨.nop8A, 0x800A, 0xF00F⟩, by decide, rfl,
    OpcodeRow.holds_of_mask (formatC_mask_sub 8 x y _) rfl⟩

theorem nop8B (x : RegIdx) (y : RegIdx) : Statement (.nop8B x y) :=
  ⟨Instr.wellFormed_eq_true _, ⟨.nop8B, 0x800B, 0xF00F⟩, by decide, rfl,
    OpcodeRow.holds_of_mask (formatC_mask_sub 8 x y _) rfl⟩

theorem nop8C (x : RegIdx) (y : RegIdx) : Statement (.nop8C x y) :=
  ⟨Instr.wellFormed_eq_true _, ⟨.nop8C, 0x800C, 0xF00F⟩, by decide, rfl,
    OpcodeRow.holds_of_mask (formatC_mask_sub 8 x y _) rfl⟩

theorem nop8D (x : RegIdx) (y : RegIdx) : Statement (.nop8D x y) :=
  ⟨Instr.wellFormed_eq_true _, ⟨.nop8D, 0x800D, 0xF00F⟩, by decide, rfl,
    OpcodeRow.holds_of_mask (formatC_mask_sub 8 x y _) rfl⟩

theorem nop8E (x : RegIdx) (y : RegIdx) : Statement (.nop8E x y) :=
  ⟨Instr.wellFormed_eq_true _, ⟨.nop8E, 0x800E, 0xF00F⟩, by decide, rfl,
    OpcodeRow.holds_of_mask (formatC_mask_sub 8 x y _) rfl⟩

theorem nop8F (x : RegIdx) (y : RegIdx) : Statement (.nop8F x y) :=
  ⟨Instr.wellFormed_eq_true _, ⟨.nop8F, 0x800F, 0xF00F⟩, by decide, rfl,
    OpcodeRow.holds_of_mask (formatC_mask_sub 8 x y _) rfl⟩

theorem ldI (nnn : Addr) : Statement (.ldI nnn) :=
  ⟨Instr.wellFormed_eq_true _, ⟨.ldI, 0xA000, 0xF000⟩, by decide, rfl,
    OpcodeRow.holds_of_mask (formatA_mask 10 nnn) rfl⟩

theorem jpV0 (nnn : Addr) : Statement (.jpV0 nnn) :=
  ⟨Instr.wellFormed_eq_true _, ⟨.jpV0, 0xB000, 0xF000⟩, by decide, rfl,
    OpcodeRow.holds_of_mask (formatA_mask 11 nnn) rfl⟩

theorem rnd (x : RegIdx) (nn : Byte) : Statement (.rnd x nn) :=
  ⟨Instr.wellFormed_eq_true _, ⟨.rnd, 0xC000, 0xF000⟩, by decide, rfl,
    OpcodeRow.holds_of_mask (formatB_mask 12 x nn) rfl⟩

theorem drw (x : RegIdx) (y : RegIdx) (n : Nibble) : Statement (.drw x y n) :=
  ⟨Instr.wellFormed_eq_true _, ⟨.drw, 0xD000, 0xF000⟩, by decide, rfl,
    OpcodeRow.holds_of_mask (formatC_mask 13 x y n) rfl⟩

theorem nop0 (nnn : Addr) : Statement (.nop0 nnn) :=
  ⟨Instr.wellFormed_eq_true _, ⟨.nop0, 0x0000, 0xF000⟩, by decide, rfl,
    OpcodeRow.holds_of_mask (formatA_mask 0 nnn) rfl⟩

theorem nop9 (x : RegIdx) (y : RegIdx) (n : Nibble) : Statement (.nop9 x y n) :=
  ⟨Instr.wellFormed_eq_true _, ⟨.nop9, 0x9000, 0xF000⟩, by decide, rfl,
    OpcodeRow.holds_of_mask (formatC_mask 9 x y n) rfl⟩

theorem nopE (x : RegIdx) (nn : Byte) : Statement (.nopE x nn) :=
  ⟨Instr.wellFormed_eq_true _, ⟨.nopE, 0xE000, 0xF000⟩, by decide, rfl,
    OpcodeRow.holds_of_mask (formatB_mask 14 x nn) rfl⟩

theorem nopF (x : RegIdx) (nn : Byte) : Statement (.nopF x nn) :=
  ⟨Instr.wellFormed_eq_true _, ⟨.nopF, 0xF000, 0xF000⟩, by decide, rfl,
    OpcodeRow.holds_of_mask (formatB_mask 15 x nn) rfl⟩

end Sys2Proof.Laws.RowHoldsEncoding
end

