-- ==== Sys2Proof/Laws/Step.lean ====
section
/-!
SUPPORT. Everything a step can do, said once.
-/

namespace Sys2Proof.Machine

/-- Every instruction answers a next state: an instruction that faults takes the fault (log 4). -/
theorem exec_answers_next (i : Instr) (s : State) : ∃ t, exec i s = .next t := by
  cases i
  case call nnn =>
    by_cases h : s.sp.val < Config.stackDepth
    · exact ⟨_, dif_pos h⟩
    · exact ⟨_, dif_neg h⟩
  case drw x y n =>
    by_cases h : spriteInBounds s.i n = true
    · exact ⟨_, if_pos h⟩
    · exact ⟨_, if_neg h⟩
  all_goals exact ⟨_, rfl⟩

/-- With the value this hardware takes, the parameterised meaning is the meaning (00_scope.md R5). -/
theorem execWith_shrSource (i : Instr) (s : State) : execWith shrSource i s = exec i s := by
  cases i <;> rfl

/-- Only SHR reads the parameter. -/
theorem execWith_of_mnemonic_ne {source : Config.ShrSource} {i : Instr} (h : i.mnemonic ≠ .shr)
    (s : State) : execWith source i s = exec i s := by
  cases i
  case shr x y => exact absurd rfl h
  all_goals rfl

/-- What SHR does for either value of the parameter. -/
theorem execWith_shr (source : Config.ShrSource) (x y : RegIdx) (s : State) :
    execWith source (.shr x y) s = execShrFrom source x y s := rfl

/-- The parameterised meaning answers a next state too. -/
theorem execWith_answers_next (source : Config.ShrSource) (i : Instr) (s : State) :
    ∃ t, execWith source i s = .next t := by
  by_cases h : i.mnemonic = .shr
  · cases i
    case shr x y => exact ⟨_, rfl⟩
    all_goals cases h
  · rw [execWith_of_mnemonic_ne h]
    exact exec_answers_next i s

/-- With the value this hardware takes, the parameterised step is the step. -/
theorem stepWith_shrSource (s : State) : stepWith shrSource s = step s := by
  simp only [stepWith, step, cycle, execWith_shrSource]

/-- If a cycle answers a next state, the core was not FAULTED, and either it ran the word it fetched or it took
the fetch fault. -/
theorem cycle_next_cases {execute : Instr → Stepper} {s t : State} (h : cycle execute s = .next t) :
    s.lifecycle ≠ .faulted ∧
      ((s.canFetch = true ∧ execute (decodeWord s.fetchWord) (s.latchIr s.fetchWord) = .next t) ∨
        (s.canFetch = false ∧ t = s.raise (.fetchOutOfBounds s.pc))) := by
  unfold cycle at h
  split_ifs at h with hl hf
  · exact ⟨hl, .inl ⟨hf, h⟩⟩
  · cases h
    exact ⟨hl, .inr ⟨Bool.eq_false_iff.2 hf, rfl⟩⟩

/-- What a step that answers a next state did. -/
theorem step_next_cases {s t : State} (h : step s = .next t) :
    s.lifecycle ≠ .faulted ∧
      ((s.canFetch = true ∧ exec (decodeWord s.fetchWord) (s.latchIr s.fetchWord) = .next t) ∨
        (s.canFetch = false ∧ t = s.raise (.fetchOutOfBounds s.pc))) :=
  cycle_next_cases h

/-- What a parameterised step that answers a next state did. -/
theorem stepWith_next_cases {source : Config.ShrSource} {s t : State}
    (h : stepWith source s = .next t) :
    s.lifecycle ≠ .faulted ∧
      ((s.canFetch = true ∧
          execWith source (decodeWord s.fetchWord) (s.latchIr s.fetchWord) = .next t) ∨
        (s.canFetch = false ∧ t = s.raise (.fetchOutOfBounds s.pc))) :=
  cycle_next_cases h

/-- Over meanings that always answer a next state, a cycle reports a fault only in FAULTED, and then the
recorded one. -/
theorem cycle_fault_cases {execute : Instr → Stepper} (hx : ∀ i s, ∃ t, execute i s = .next t)
    {s : State} {r : Fault} (h : cycle execute s = .fault r) :
    s.lifecycle = .faulted ∧ r = .stuck s.fault := by
  unfold cycle at h
  split_ifs at h with hl hf
  · cases h
    exact ⟨hl, rfl⟩
  · obtain ⟨t, ht⟩ := hx (decodeWord s.fetchWord) (s.latchIr s.fetchWord)
    rw [ht] at h
    cases h

/-- Over meanings that always answer a next state, a cycle is never refused. -/
theorem cycle_not_refused {execute : Instr → Stepper} (hx : ∀ i s, ∃ t, execute i s = .next t)
    (s : State) (r : Refusal) : cycle execute s ≠ .refused r := by
  intro h
  unfold cycle at h
  split_ifs at h with hl hf
  obtain ⟨t, ht⟩ := hx (decodeWord s.fetchWord) (s.latchIr s.fetchWord)
  rw [ht] at h
  cases h

/-- A step reports a fault only in FAULTED, and then the recorded one. -/
theorem step_fault_cases {s : State} {r : Fault} (h : step s = .fault r) :
    s.lifecycle = .faulted ∧ r = .stuck s.fault := cycle_fault_cases exec_answers_next h

/-- A step is never refused. -/
theorem step_not_refused (s : State) (r : Refusal) : step s ≠ .refused r :=
  cycle_not_refused exec_answers_next s r

/-- A parameterised step is never refused. -/
theorem stepWith_not_refused (source : Config.ShrSource) (s : State) (r : Refusal) :
    stepWith source s ≠ .refused r := cycle_not_refused (execWith_answers_next source) s r

/-- What CALL can do. -/
theorem execCall_cases {nnn : Addr} {s t : State} (h : execCall nnn s = .next t) :
    (∃ hsp : s.sp.val < 16, t = (s.pushReturn hsp s.pc).setPc (zextAddr nnn)) ∨
      (s.sp.val = 16 ∧ t = s.raise (.stackOverflow s.pc)) := by
  unfold execCall at h
  split_ifs at h with hsp
  · cases h
    exact .inl ⟨hsp, rfl⟩
  · cases h
    have hlt : s.sp.val < 16 + 1 := s.sp.isLt
    have hge : ¬ s.sp.val < 16 := hsp
    exact .inr ⟨by omega, rfl⟩

/-- What DRW can do. -/
theorem execDrw_cases {x y : RegIdx} {n : Nibble} {s t : State} (h : execDrw x y n s = .next t) :
    (spriteInBounds s.i n = true ∧
        t = ((s.setFb (drawSprite s.mem s.i.toNat (s.readV x) (s.readV y) n.toNat s.fb).1).writeV vf
          (flagByte (drawSprite s.mem s.i.toNat (s.readV x) (s.readV y) n.toNat s.fb).2)).advance) ∨
      (spriteInBounds s.i n = false ∧ t = s.raise (.readOutOfBounds s.pc 0x1000)) := by
  unfold execDrw at h
  split_ifs at h with hb
  · cases h
    exact .inl ⟨hb, rfl⟩
  · cases h
    exact .inr ⟨Bool.eq_false_iff.2 hb, rfl⟩

end Sys2Proof.Machine
end

