-- ==== Sys2Proof/Tests/Slice0.lean ====
section
/-!
SUPPORT. Tests: the words of spec/30_encoding.md, the vectors of spec/95_test_vectors.md (E1 to E10, V1 to V103),
checks that refuse ill-formed terms, and a witness for the hypotheses of every obligation that has any.
-/

namespace Sys2Proof.Tests

open Sys2Proof Sys2Proof.Machine

/-! ### Helpers -/

/-- The reset state with the word `w` at `PC = pc`. -/
def at' (pc w : Nat) : State := { State.reset with pc := BitVec.ofNat 16 pc }.withFetchWord 16 w

/-- A state with byte `b` stored at `a`. -/
def poke (s : State) (a : Nat) (b : Byte) : State := { s with mem := s.mem.writeByte a b }

/-- What `f` reads in the state after one step. -/
def after {α : Type} (s : State) (f : State → α) : Option α :=
  match step s with
  | .next t => some (f t)
  | _ => none

/-- What `f` reads in the result of a host command. -/
def reply {α : Type} (c : HostCommand) (s : State) (f : HostResult → α) : Option α :=
  match hostAction c s with
  | .done r => some (f r)
  | .refused _ => none

/-! ### Checks that refuse ill-formed terms -/

theorem test_fits_refuses_wide_register : Operand.fits ⟨4, 16⟩ = false := by decide
theorem test_fits_refuses_wide_byte : Operand.fits ⟨8, 256⟩ = false := by decide
theorem test_fits_refuses_wide_address : Operand.fits ⟨12, 4096⟩ = false := by decide
theorem test_wellFormed_accepts : (Instr.drw 0xF 0xF 0xF).wellFormed = true := by decide
/-- V97. -/
theorem test_image_refuses_overlong : ProgramImage.wellFormed ⟨[1, 2, 3], 0xFFE⟩ = false := by decide
/-- V96. -/
theorem test_image_accepts_last_bytes : ProgramImage.wellFormed ⟨[1, 2, 3], 0xFFD⟩ = true := by decide
theorem test_memory_refuses_unsorted : Memory.wf [(5, 1), (4, 1)] = false := by decide
theorem test_memory_refuses_repeat : Memory.wf [(5, 1), (5, 2)] = false := by decide
theorem test_memory_refuses_zero_cell : Memory.wf [(5, 0)] = false := by decide
theorem test_memory_refuses_outside : Memory.wf [(4096, 1)] = false := by decide
theorem test_memory_zero_write_removes : Memory.writeByte [(5, 7)] 5 0 = [] := by decide
theorem test_decode_refuses_one_byte : decode [0x12] = .error .truncated := by decide
theorem test_inv_refuses_memory : ¬ State.Inv { State.reset with mem := [(5, 0)] } := by decide
theorem test_inv_refuses_i : ¬ State.Inv { State.reset with i := 0x1000 } := by decide
theorem test_inv_refuses_pc : ¬ State.Inv { State.reset with pc := 0x10FF } := by decide
theorem test_inv_refuses_length : ¬ State.Inv { State.reset with programLength := 4097 } := by decide
theorem test_inv_refuses_dirty_stack :
    ¬ State.Inv { State.reset with stack := State.reset.stack.set 0 1 } := by decide
theorem test_inv_refuses_far_caller :
    ¬ State.Inv { State.reset with stack := State.reset.stack.set 0 0xFFF, sp := 1 } := by decide
theorem test_inv_refuses_running : ¬ State.Inv { State.reset with running := true } := by decide
theorem test_inv_refuses_faulted_without_record :
    ¬ State.Inv { State.reset with lifecycle := .faulted } := by decide

/-! ### Words written out from 30_encoding.md: op, then the fields of the format -/

theorem test_decode_nop0 : decodeWord 0b0000_0000_1110_1110 = .nop0 0x0EE := by decide
theorem test_decode_jp : decodeWord 0b0001_0010_0011_0100 = .jp 0x234 := by decide
theorem test_decode_call : decodeWord 0b0010_1010_1011_1100 = .call 0xABC := by decide
theorem test_decode_seImm : decodeWord 0b0011_0011_0000_1001 = .seImm 0x3 0x09 := by decide
theorem test_decode_sneImm : decodeWord 0b0100_0011_0000_1001 = .sneImm 0x3 0x09 := by decide
theorem test_decode_seReg : decodeWord 0b0101_0001_0010_1111 = .seReg 0x1 0x2 0xF := by decide
theorem test_decode_ldImm : decodeWord 0b0110_0101_0000_0011 = .ldImm 0x5 0x03 := by decide
theorem test_decode_addImm : decodeWord 0b0111_0101_0000_1001 = .addImm 0x5 0x09 := by decide
theorem test_decode_ldReg : decodeWord 0b1000_0001_0010_0000 = .ldReg 0x1 0x2 := by decide
theorem test_decode_orReg : decodeWord 0b1000_0001_0010_0001 = .orReg 0x1 0x2 := by decide
theorem test_decode_andReg : decodeWord 0b1000_0001_0010_0010 = .andReg 0x1 0x2 := by decide
theorem test_decode_xorReg : decodeWord 0b1000_0001_0010_0011 = .xorReg 0x1 0x2 := by decide
theorem test_decode_addReg : decodeWord 0b1000_1010_1011_0100 = .addReg 0xA 0xB := by decide
theorem test_decode_sub : decodeWord 0b1000_1100_1101_0101 = .sub 0xC 0xD := by decide
theorem test_decode_shr : decodeWord 0b1000_1110_0000_0110 = .shr 0xE 0x0 := by decide
theorem test_decode_nop87 : decodeWord 0b1000_0001_0010_0111 = .nop87 0x1 0x2 := by decide
theorem test_decode_nop88 : decodeWord 0b1000_0001_0010_1000 = .nop88 0x1 0x2 := by decide
theorem test_decode_nop89 : decodeWord 0b1000_0001_0010_1001 = .nop89 0x1 0x2 := by decide
theorem test_decode_nop8A : decodeWord 0b1000_0001_0010_1010 = .nop8A 0x1 0x2 := by decide
theorem test_decode_nop8B : decodeWord 0b1000_0001_0010_1011 = .nop8B 0x1 0x2 := by decide
theorem test_decode_nop8C : decodeWord 0b1000_0001_0010_1100 = .nop8C 0x1 0x2 := by decide
theorem test_decode_nop8D : decodeWord 0b1000_0001_0010_1101 = .nop8D 0x1 0x2 := by decide
theorem test_decode_nop8E : decodeWord 0b1000_0001_0010_1110 = .nop8E 0x1 0x2 := by decide
theorem test_decode_nop8F : decodeWord 0b1000_0001_0010_1111 = .nop8F 0x1 0x2 := by decide
theorem test_decode_nop9 : decodeWord 0b1001_0001_0010_0011 = .nop9 0x1 0x2 0x3 := by decide
theorem test_decode_ldI : decodeWord 0b1010_0010_0000_1100 = .ldI 0x20C := by decide
theorem test_decode_jpV0 : decodeWord 0b1011_0010_0000_0110 = .jpV0 0x206 := by decide
theorem test_decode_rnd : decodeWord 0b1100_0010_0000_1111 = .rnd 0x2 0x0F := by decide
theorem test_decode_drw : decodeWord 0b1101_0001_0010_0011 = .drw 0x1 0x2 0x3 := by decide
theorem test_decode_nopE : decodeWord 0b1110_0001_1001_1110 = .nopE 0x1 0x9E := by decide
theorem test_decode_nopF : decodeWord 0b1111_0001_0101_0101 = .nopF 0x1 0x55 := by decide
theorem test_encode_drw : encode (.drw 0x0 0x1 0x2) = 0xD012 := by decide
theorem test_encodeBytes_high_first : encodeBytes (.ldImm 0x0 0x03) = [0x60, 0x03] := by decide
theorem test_decodeTableWord : decodeTableWord 16 0x8AB4 = some (.addReg 0xA 0xB) := by decide

/-! ### Fetch -/

/-- V1. -/
theorem test_fetch_step : after (at' 0x200 0x6003) (fun t => (t.readV 0, t.ir, t.pc)) =
    some (0x03, 0x6003, 0x202) := by decide
/-- V2. -/
theorem test_fetch_odd : after (at' 0x203 0x612A) (fun t => (t.readV 1, t.ir, t.pc)) =
    some (0x2A, 0x612A, 0x205) := by decide
/-- V3. -/
theorem test_fetch_last_word : after (at' 0xFFE 0x0000) (fun t => (t.pc, t.ir, t.lifecycle)) =
    some (0x1000, 0x0000, .idle) := by decide
/-- V4: the record, and `IR` unchanged. -/
theorem test_fetch_fault : after { at' 0xFFF 0 with ir := 0x1234 }
    (fun t => (t.fault, t.lifecycle, t.ir, t.pc)) =
    some (.fetchOutOfBounds 0xFFF, .faulted, 0x1234, 0xFFF) := by decide
/-- V5. -/
theorem test_fetch_fault_beyond : after (at' 0x1000 0) (fun t => (t.fault, t.lifecycle)) =
    some (.fetchOutOfBounds 0x1000, .faulted) := by decide
/-- V10. -/
theorem test_step_when_halted : after { at' 0x300 0x6005 with lifecycle := .halted }
    (fun t => (t.readV 0, t.pc, t.lifecycle)) = some (0x05, 0x302, .halted) := by decide

/-! ### Control transfer -/

/-- V11. -/
theorem test_jp : after (at' 0x200 0x1234) State.pc = some 0x234 := by decide
/-- V13. -/
theorem test_jp_odd : after (at' 0x200 0x1203) State.pc = some 0x203 := by decide
/-- V16, E8. -/
theorem test_call : after (at' 0x200 0x2300) (fun t => (t.stack[0], t.sp.val, t.pc)) =
    some (0x200, 1, 0x300) := by decide
/-- V18. -/
theorem test_call_overflow : after { at' 0x456 0x2ABC with sp := 16 }
    (fun t => (t.fault, t.ir, t.sp.val, t.pc)) = some (.stackOverflow 0x456, 0x2ABC, 16, 0x456) := by
  decide
/-- V19. -/
theorem test_seImm_taken : after ((at' 0x202 0x3309).writeV 3 0x09) State.pc = some 0x206 := by decide
/-- V20. -/
theorem test_seImm_not_taken : after ((at' 0x202 0x3309).writeV 3 0x08) State.pc = some 0x204 := by
  decide
/-- V23. -/
theorem test_sneImm_not_taken : after ((at' 0x202 0x4309).writeV 3 0x09) State.pc = some 0x204 := by
  decide
/-- V24. -/
theorem test_sneImm_taken : after ((at' 0x202 0x4309).writeV 3 0x08) State.pc = some 0x206 := by decide
/-- V27: the low nibble is ignored. -/
theorem test_seReg_taken : after (((at' 0x20C 0x501F).writeV 0 4).writeV 1 4) State.pc =
    some 0x210 := by decide
/-- V26. -/
theorem test_seReg_not_taken : after (((at' 0x20C 0x5010).writeV 0 4).writeV 1 5) State.pc =
    some 0x20E := by decide
/-- V30: the sum is not masked. -/
theorem test_jpV0_unmasked : after ((at' 0x200 0xBFFF).writeV 0 0xFF) State.pc = some 0x10FE := by
  decide
/-- V32: the `x` nibble selects nothing. -/
theorem test_jpV0_reads_V0 : after ((at' 0x200 0xB500).writeV 5 0x20) State.pc = some 0x500 := by decide

/-! ### Immediate -/

/-- V34. -/
theorem test_ldImm_VF : after (at' 0x200 0x6FAA) (fun t => t.readV vf) = some 0xAA := by decide
/-- V36: wraps, no carry flag. -/
theorem test_addImm_wraps : after ((at' 0x200 0x7201).writeV 2 0xFF) (fun t => (t.readV 2, t.readV vf)) =
    some (0x00, 0x00) := by decide
/-- V38: the destination is `VF`. -/
theorem test_addImm_VF : after ((at' 0x200 0x7F90).writeV vf 0x80) (fun t => t.readV vf) =
    some 0x10 := by decide

/-! ### Family 8 -/

/-- V39. -/
theorem test_ldReg : after ((at' 0x200 0x8010).writeV 1 0x5A) (fun t => (t.readV 0, t.readV 1)) =
    some (0x5A, 0x5A) := by decide
/-- V40: `VF` is not reset. -/
theorem test_orReg : after ((((at' 0x200 0x8011).writeV 0 0xF0).writeV 1 0x0C).writeV vf 1)
    (fun t => (t.readV 0, t.readV vf)) = some (0xFC, 0x01) := by decide
/-- V41. -/
theorem test_andReg : after (((at' 0x200 0x8012).writeV 0 0xF0).writeV 1 0x3C) (fun t => t.readV 0) =
    some 0x30 := by decide
/-- V42. -/
theorem test_xorReg : after (((at' 0x200 0x8013).writeV 0 0xFF).writeV 1 0x0F) (fun t => t.readV 0) =
    some 0xF0 := by decide
/-- V44, E2. -/
theorem test_addReg_carry : after (((at' 0x200 0x8AB4).writeV 0xA 0xFF).writeV 0xB 0x10)
    (fun t => (t.readV 0xA, t.readV 0xB, t.readV vf)) = some (0x0F, 0x10, 1) := by decide
/-- V50: the flag is written last. -/
theorem test_addReg_VF : after (((at' 0x200 0x8F14).writeV vf 0x01).writeV 1 0x02)
    (fun t => t.readV vf) = some 0 := by decide
/-- V52, E4. -/
theorem test_sub_borrow : after (((at' 0x200 0x8CD5).writeV 0xC 0x28).writeV 0xD 0x82)
    (fun t => (t.readV 0xC, t.readV 0xD, t.readV vf)) = some (0xA6, 0x82, 0) := by decide
/-- V54: equal operands give no borrow. -/
theorem test_sub_equal : after (((at' 0x200 0x8015).writeV 0 0x33).writeV 1 0x33)
    (fun t => (t.readV 0, t.readV vf)) = some (0x00, 1) := by decide
/-- V63: the source is `Vx`. -/
theorem test_shr_source : after (((at' 0x200 0x8016).writeV 0 0x04).writeV 1 0x0B)
    (fun t => (t.readV 0, t.readV vf)) = some (0x02, 0) := by decide
/-- V63 with `SHR_SOURCE = Y`, as a step of the model that takes the parameter. -/
theorem test_shr_source_y : (match stepWith .y (((at' 0x200 0x8016).writeV 0 0x04).writeV 1 0x0B) with
    | .next t => some (t.readV 0, t.readV vf, t.pc)
    | _ => none) = some (0x05, 1, 0x202) := by decide
/-- V64: the flag is written last. -/
theorem test_shr_VF : after ((at' 0x200 0x8F06).writeV vf 0x03) (fun t => t.readV vf) = some 1 := by
  decide

/-! ### Address register and random byte -/

/-- V67. -/
theorem test_ldI : after { at' 0x200 0xAFFF with i := 0x0123 } (fun t => (t.i, t.pc)) =
    some (0x0FFF, 0x202) := by decide
/-- V69: the masked bits are clear for every draw. -/
theorem test_rnd_masked : after (at' 0x200 0xC20F) (fun t => (t.readV 2 &&& 0xF0, t.pc)) =
    some (0, 0x202) := by
  show some (((Config.drawByte 0 &&& 0x0F) &&& 0xF0, (0x202 : Word))) = some (0, 0x202)
  rw [BitVec.and_assoc]
  simp

/-! ### Sprite draw -/

/-- V75, P4: bit 7 is leftmost, and both axes wrap. -/
theorem test_drw_wraps : after (((poke (poke { at' 0x200 0xD012 with i := 0x20C } 0x20C 0xC3) 0x20D 0x81).writeV
      0 0x3E).writeV 1 0x1F)
    (fun t => ([t.pixel 62 31, t.pixel 63 31, t.pixel 4 31, t.pixel 5 31, t.pixel 62 0, t.pixel 5 0],
      [t.pixel 0 31, t.pixel 63 0, t.pixel 62 30], t.readV vf)) =
    some ([true, true, true, true, true, true], [false, false, false], 0) := by decide
/-- V73: a collision. -/
theorem test_drw_collision : after (poke { at' 0x200 0xD011 with
      i := 0x300, fb := State.reset.fb.toggle 0 0 } 0x300 0x80)
    (fun t => (t.pixel 0 0, t.readV vf, t.pc)) = some (false, 1, 0x202) := by decide
/-- V80: nothing is drawn, the record is written. -/
theorem test_drw_fault : after (poke { at' 0x200 0xD012 with i := 0xFFF } 0xFFF 0x80)
    (fun t => (t.pixel 0 0, t.fault, t.ir, t.pc)) =
    some (false, .readOutOfBounds 0x200 0x1000, 0xD012, 0x200) := by decide
/-- V78: `n = 0` clears `VF`. -/
theorem test_drw_no_rows : after (({ at' 0x200 0xD010 with i := 0x300 }).writeV vf 1)
    (fun t => (t.readV vf, t.fb)) = some (0, State.reset.fb) := by decide

/-! ### Unassigned encodings -/

/-- What every unassigned encoding leaves of a marked state. -/
def quietAfter (w : Nat) : Option (Vector Byte 16 × Word × Nat × Word) :=
  after { (at' 0x300 w).writeV 1 0x81 with i := 0x300, sp := 1 } (fun t => (t.v, t.i, t.sp.val, t.pc))

/-- The marked state's registers, with `PC` advanced by 2. -/
def quietResult : Option (Vector Byte 16 × Word × Nat × Word) :=
  some ((State.reset.writeV 1 0x81).v, 0x300, 1, 0x302)

/-- V87: the conventional RET does not return. -/
theorem test_nop0 : quietAfter 0x00EE = quietResult := by decide
/-- V88. -/
theorem test_nop9 : quietAfter 0x9010 = quietResult := by decide
/-- V89. -/
theorem test_nopE : quietAfter 0xE19E = quietResult := by decide
/-- V92. -/
theorem test_nopF : quietAfter 0xF11E = quietResult := by decide
/-- V93. -/
theorem test_nop87 : quietAfter 0x8017 = quietResult := by decide
theorem test_nop88 : quietAfter 0x8018 = quietResult := by decide
theorem test_nop89 : quietAfter 0x8019 = quietResult := by decide
theorem test_nop8A : quietAfter 0x801A = quietResult := by decide
theorem test_nop8B : quietAfter 0x801B = quietResult := by decide
theorem test_nop8C : quietAfter 0x801C = quietResult := by decide
theorem test_nop8D : quietAfter 0x801D = quietResult := by decide
/-- V94: no shift left. -/
theorem test_nop8E : quietAfter 0x811E = quietResult := by decide
theorem test_nop8F : quietAfter 0x801F = quietResult := by decide

/-! ### Host interface -/

/-- V6: the halt, without a fetch. -/
theorem test_loop_halts : reply .invokeLoop { at' 0x1000 0 with lifecycle := .running, running := true }
    (fun r => (r.state.lifecycle, r.state.running, r.events, r.loopAgain)) =
    some (.halted, false, [.completeOut], false) := by decide
/-- V7: `PC = 0xFFF` under continuous run. -/
theorem test_loop_fetch_fault : reply .invokeLoop { at' 0xFFF 0 with lifecycle := .running, running := true }
    (fun r => (r.state.lifecycle, r.events)) =
    some (.faulted, [.faultOut (.fetchOutOfBounds 0xFFF)]) := by decide
/-- V8: the fault is reported again. -/
theorem test_step_faulted : reply .step { at' 0x200 0x6003 with lifecycle := .faulted, fault := .stackOverflow 5 }
    (fun r => (r.state.pc, r.events)) = some (0x200, [.faultOut (.stackOverflow 5)]) := by decide
/-- V96. -/
theorem test_load : reply (.loadProgram [1, 2, 3] (some 0xFFD)) State.reset
    (fun r => (r.state.mem, r.state.programLength, r.error)) =
    some ([(0xFFD, 1), (0xFFE, 2), (0xFFF, 3)], 3, none) := by decide
/-- V97: refused with code 0x83, nothing changed. -/
theorem test_load_refused : reply (.loadProgram [1, 2, 3] (some 0xFFE)) State.reset
    (fun r => (r.state.mem, r.error.map HostError.code)) = some ([], some 0x83) := by decide
/-- R114: the origin left out is 0x200. -/
theorem test_load_default_origin : reply (.loadProgram [1, 2] none) State.reset (fun r => r.state.mem) =
    some [(0x200, 1), (0x201, 2)] := by decide
/-- V99. -/
theorem test_dbg_register : dbgRegister (State.reset.writeV 3 7) 16 = .error .regIndexOutOfRange ∧
    dbgRegister (State.reset.writeV 3 7) 3 = .ok 7 := by decide
/-- V100. -/
theorem test_dbg_memory : dbgMemoryByte State.reset 0x1000 = .error .memAddressOutOfRange := by decide
/-- V101. -/
theorem test_reset : reply .reset { at' 0x300 0x6003 with lifecycle := .faulted, fault := .stackOverflow 5 }
    (fun r => r.state) = some State.reset := by decide
/-- E10, its start: `run` loads at 0x200 and is RUNNING. -/
theorem test_run : reply (.run [0x60, 0x03, 0x70, 0x09]) State.reset
    (fun r => (r.state.lifecycle, r.state.pc, r.state.mem, r.loopAgain)) =
    some (.running, 0x200, [(0x200, 0x60), (0x201, 0x03), (0x202, 0x70), (0x203, 0x09)], true) := by
  decide

/-! ### Witnesses: a state and operands that meet the hypotheses of each obligation, clause by clause -/

theorem witness_OpcodeRowsPartitionTheWords :
    (⟨.shr, 0x8006, 0xF00F⟩ : OpcodeRow) ∈ opcodeTable ∧
      OpcodeRow.holds ⟨.shr, 0x8006, 0xF00F⟩ 0x8FF6 = true := by decide

theorem witness_DispatchFollowsTheTables_family8 :
    (7 ≤ (0x7 : Nibble).toNat ∧ 7 ≤ (0xF : Nibble).toNat) ∧ ¬ 7 ≤ (0x6 : Nibble).toNat := by decide

theorem witness_NoOpSpaceIsExactly_member : (decodeWord 0x8007).IsNoOp ∧ (decodeWord 0xFFFF).IsNoOp := by
  unfold Instr.IsNoOp; decide

theorem witness_NoOpSpaceIsExactly_other : ¬ (decodeWord 0x8006).IsNoOp ∧ ¬ (decodeWord 0xA000).IsNoOp := by
  unfold Instr.IsNoOp; decide

/-- A faulted core, and a halted one. -/
def faultedCore : State :=
  { at' 0x456 0x2ABC with sp := 16, lifecycle := .faulted, fault := .stackOverflow 0x456 }

theorem witness_OnlyWayToIdle_reset : faultedCore.lifecycle = .faulted ∧
    ∃ r, hostAction .reset faultedCore = .done r ∧ r.state.lifecycle = .idle :=
  ⟨rfl, _, rfl, rfl⟩

theorem witness_OnlyWayToIdle_run : ({ State.reset with lifecycle := .halted } : State).lifecycle = .halted ∧
    ∃ r, hostAction (.run (List.replicate 3585 0)) { State.reset with lifecycle := .halted } = .done r ∧
      r.state.lifecycle = .idle := by
  have h : ProgramImage.wellFormed ⟨List.replicate 3585 0, Config.origin⟩ = false := by
    unfold ProgramImage.wellFormed; rw [List.length_replicate]; decide
  exact ⟨rfl, _, hostRun_overlong h (by decide), rfl⟩

theorem witness_StepRunsTheFetchedInstruction : (at' 0xFFE 0x7009).lifecycle ≠ .faulted ∧
    (at' 0xFFE 0x7009).pc.toNat + 1 ≤ 0xFFF ∧
    decode [(at' 0xFFE 0x7009).mem.readByte 0xFFE, (at' 0xFFE 0x7009).mem.readByte 0xFFF] =
      .ok (.addImm 0 9, []) := by decide

theorem witness_PlacedWordIsRunNext : State.reset.mem.wf = true ∧ State.reset.lifecycle ≠ .faulted ∧
    State.reset.pc.toNat + 1 ≤ 0xFFF := by decide

theorem witness_FetchPastMemoryFaults : ((at' 0xFFF 0).lifecycle ≠ .faulted ∧ 0xFFF ≤ (at' 0xFFF 0).pc.toNat) ∧
    (at' 0x1000 0).lifecycle ≠ .faulted ∧ 0xFFF ≤ (at' 0x1000 0).pc.toNat := by decide

theorem witness_FaultedCoreIsStuck : faultedCore.lifecycle = .faulted := rfl

theorem witness_NoEncodingIsIllegal : (at' 0xFFE 0x8007).lifecycle ≠ .faulted ∧
    (at' 0xFFE 0x8007).pc.toNat + 1 ≤ 0xFFF ∧ fieldOp (at' 0xFFE 0x8007).fetchWord = 0x8 ∧
    7 ≤ (fieldN (at' 0xFFE 0x8007).fetchWord).toNat := by decide

theorem witness_FaultsAreExactlyTheThreeCauses_fetch : 0xFFF ≤ (at' 0xFFF 0).pc.toNat ∧
    ∃ t, step (at' 0xFFF 0) = .next t := ⟨by decide, _, rfl⟩

theorem witness_FaultsAreExactlyTheThreeCauses_call :
    (at' 0xFFE 0x2ABC).pc.toNat < 0xFFF ∧ decodeWord (at' 0xFFE 0x2ABC).fetchWord = .call 0xABC ∧
      ∃ t, step { at' 0xFFE 0x2ABC with sp := 16 } = .next t := ⟨by decide, by decide, _, rfl⟩

theorem witness_FaultsAreExactlyTheThreeCauses_draw :
    decodeWord (at' 0xFFD 0xD00F).fetchWord = .drw 0 0 0xF ∧ 0xFFF < (0xFF1 : Word).toNat + (0xF : Nibble).toNat ∧
      ∃ t, step { at' 0xFFD 0xD00F with i := 0xFF2 } = .next t := ⟨by decide, by decide, _, rfl⟩

theorem witness_JpSetsPc_end : State.reset.lifecycle ≠ .faulted := by decide

theorem witness_CallPushesItsOwnAddress : State.reset.sp.val < 16 ∧
    ({ State.reset with sp := 15 } : State).sp.val < 16 := by decide

theorem witness_OnlyCallMovesTheStackPointer_other :
    (∃ t, exec (.jp 0x300) State.reset = .next t) ∧ ∀ nnn, Instr.jp 0x300 ≠ .call nnn :=
  ⟨⟨_, rfl⟩, nofun⟩

theorem witness_OnlyCallMovesTheStackPointer_below :
    ∃ t, exec (.call 0x300) { State.reset with sp := 15 } = .next t := ⟨_, rfl⟩

theorem witness_OnlyCallMovesTheStackPointer_full :
    ∃ t, exec (.call 0x300) { State.reset with sp := 16 } = .next t := ⟨_, rfl⟩

theorem witness_CallAtCapacityOverflows : ({ State.reset with sp := 16 } : State).sp.val = 16 := rfl

theorem witness_SkipIfEqualsImmediate : (State.reset.writeV 3 9).readV 3 = 9 ∧
    (State.reset.writeV 3 8).readV 3 ≠ 9 ∧ (at' 0xFFE 0x3009).pc = 0xFFE := by decide

theorem witness_SkipIfDiffersFromImmediate : (State.reset.writeV 3 8).readV 3 ≠ 9 ∧
    (State.reset.writeV 3 9).readV 3 = 9 ∧ (at' 0xFFE 0x4009).pc = 0xFFE := by decide

theorem witness_SkipIfRegistersEqual : (State.reset.writeV 3 9).readV 3 = (State.reset.writeV 3 9).readV 3 ∧
    (State.reset.writeV 3 9).readV 3 ≠ (State.reset.writeV 3 9).readV 4 := by decide

theorem witness_EvenPcStaysEven : (∃ t, exec (.addImm 0 1) State.reset = .next t) ∧
    ¬ (Instr.addImm 0 1).IsJump ∧ State.reset.pc.toNat % 2 = 0 :=
  ⟨⟨_, rfl⟩, by unfold Instr.IsJump; decide, by decide⟩

theorem witness_AddImmediateWritesNoFlag : ∃ u t, exec (.ldImm 2 0xFF) State.reset = .next u ∧
    exec (.addImm 2 1) u = .next t := ⟨_, _, rfl, rfl⟩

/-- Registers 1 and 2 hold 0xFF and 0x01, register 0 holds 0. -/
def sums : State := (State.reset.writeV 1 0xFF).writeV 2 0x01

theorem witness_AddRegistersWritesCarry : (1 : RegIdx) ≠ vf ∧
    (sums.readV 1).toNat + (sums.readV 2).toNat > 255 ∧
    (sums.readV 1).toNat + (sums.readV 0).toNat ≤ 255 := by decide

theorem witness_SubtractWritesNoBorrow : (1 : RegIdx) ≠ vf ∧
    (sums.readV 2).toNat > (sums.readV 0).toNat ∧ (sums.readV 1).toNat ≤ (sums.readV 1).toNat := by decide

theorem witness_ShiftRightOfVx : (0xE : RegIdx) ≠ vf := by decide

theorem witness_ShiftRightForEitherSource : (Config.ShrSource.x = .x) ∧ (0 : RegIdx) ≠ vf := by decide

theorem witness_LoadIWritesIAndNothingElseDoes_other :
    (∃ t, exec (.ldImm 0 1) State.reset = .next t) ∧ ∀ nnn, Instr.ldImm 0 1 ≠ .ldI nnn :=
  ⟨⟨_, rfl⟩, nofun⟩

theorem witness_LoadIWritesIAndNothingElseDoes_step :
    (∃ t, step { at' 0x200 0x6001 with i := 0xFFF } = .next t) ∧ (0xFFF : Word).toNat ≤ 0xFFF :=
  ⟨⟨_, rfl⟩, by decide⟩

theorem witness_DrawXorsTheSprite_no_rows : (0 : Nibble).toNat = 0 := rfl

theorem witness_DrawXorsTheSprite_last_byte : (0xFFF : Word).toNat + (1 : Nibble).toNat - 1 ≤ 0xFFF ∧
    (0xFF1 : Word).toNat + (0xF : Nibble).toNat - 1 ≤ 0xFFF := by decide

/-- `I` addresses a byte 0x80, and pixel (0, 0) is set. -/
def overSet : State :=
  poke { State.reset with i := 0x300, fb := State.reset.fb.toggle 0 0 } 0x300 0x80

theorem witness_DrawXorsTheSprite_collision : SpriteSets overSet 0 0 1 0 0 ∧ overSet.pixel 0 0 = true := by
  refine ⟨⟨0, 0, ?_⟩, ?_⟩ <;> decide

theorem witness_DrawXorsTheSprite_no_collision :
    ¬ ∃ px py, SpriteSets State.reset 0 0 1 px py ∧ State.reset.pixel px py = true := by
  rintro ⟨px, py, ⟨row, col, _, _, _, _, h⟩, _⟩
  simp [State.reset] at h

theorem witness_DrawPastMemoryFaults : 0 < (0xF : Nibble).toNat ∧
    0xFFF < (0xFF2 : Word).toNat + (0xF : Nibble).toNat - 1 := by decide

theorem witness_DrawingTwiceRestoresTheScreen : (0 : RegIdx) ≠ vf ∧
    overSet.i.toNat + (1 : Nibble).toNat - 1 ≤ 0xFFF ∧
    ∃ u t, exec (.drw 0 1 1) overSet = .next u ∧ exec (.drw 0 1 1) u = .next t :=
  ⟨by decide, by decide, _, _, rfl, rfl⟩

theorem witness_NoOpsOnlyAdvance : (Instr.nopF 0xF 0xFF).IsNoOp := by unfold Instr.IsNoOp; decide

theorem witness_RegistersChangeOnlyAsListed : (∃ t, exec (.addReg 1 2) sums = .next t) ∧
    (Instr.addReg 1 2).destination? ≠ some 0 ∧ ¬ ((Instr.addReg 1 2).WritesFlag ∧ (0 : RegIdx) = vf) :=
  ⟨⟨_, rfl⟩, by decide, fun h => absurd h.2 (by decide)⟩

theorem witness_OnlyHostWritesMemory_exec : ∃ t, exec (.drw 0 0 1) overSet = .next t := ⟨_, rfl⟩

theorem witness_OnlyHostWritesMemory_host : (∃ r, hostAction .step (at' 0x200 0x6003) = .done r) ∧
    HostCommand.step ≠ .reset ∧ (∀ bytes origin, HostCommand.step ≠ .loadProgram bytes origin) ∧
    ∀ bytes, HostCommand.step ≠ .run bytes := ⟨⟨_, rfl⟩, nofun, nofun, nofun⟩

theorem witness_OnlyDrawWritesTheScreen_exec : (∃ t, exec (.nop0 0x0E0) overSet = .next t) ∧
    (Instr.nop0 0x0E0).mnemonic ≠ .drw := ⟨⟨_, rfl⟩, by decide⟩

theorem witness_OnlyDrawWritesTheScreen_load :
    ∃ r, hostAction (.loadProgram [1] (some 0xFFF)) overSet = .done r := ⟨_, rfl⟩

theorem witness_OnlyDrawWritesTheScreen_keys :
    ∃ r, hostAction (.keyIn 0xFFFF) overSet = .done r := ⟨_, rfl⟩

theorem witness_InstructionsKeepTheBookkeeping : (∃ t, exec (.call 0) State.reset = .next t) ∧
    ∃ t, exec (.call 0) { State.reset with sp := 16 } = .next t := ⟨⟨_, rfl⟩, _, rfl⟩

theorem witness_HiddenStateIsNeverRead : ∃ t, exec (.drw 0 0 1) { overSet with ir := 5, programLength := 7 } =
    .next t := ⟨_, rfl⟩

theorem witness_OnlyRandomReadsTheDraws : (Instr.sub 1 2).mnemonic ≠ .rnd ∧
    ∃ t, exec (.sub 1 2) sums = .next t := ⟨by decide, _, rfl⟩

theorem witness_SafeRunMakesAtMostSixteenCalls : ∃ t, SafeRun 2 (at' 0x200 0x2200) t :=
  ⟨_, rfl, by decide⟩

theorem witness_StepKeepsTheInvariant : State.Inv (at' 0x200 0x2300) ∧ ∃ t, step (at' 0x200 0x2300) = .next t :=
  ⟨by decide, _, rfl⟩

theorem witness_HostCommandsKeepTheInvariant : State.Inv (at' 0x200 0x2300) ∧
    ∃ r, hostAction .step (at' 0x200 0x2300) = .done r := ⟨by decide, _, rfl⟩

theorem witness_LoadWritesExactlyItsBytes : State.reset.mem.wf = true ∧
    (some 0xFFD).getD 0x200 + [1, 2, 3].length ≤ 4096 ∧
    (none : Option Nat).getD 0x200 + [1, 2, 3].length ≤ 4096 := by decide

theorem witness_OverlongLoadChangesNothing : 4096 < (some 0xFFE).getD 0x200 + [1, 2, 3].length := by decide

theorem witness_OverlongLoadChangesNothing_default :
    4096 < (none : Option Nat).getD 0x200 + (List.replicate 3585 (0 : Byte)).length := by
  rw [List.length_replicate]; decide

theorem witness_RunResetsLoadsAndStarts :
    ({ State.reset with lifecycle := .running } : State).lifecycle = .running ∧
      State.reset.lifecycle ≠ .running ∧ (List.replicate 3584 (0 : Byte)).length ≤ 3584 ∧
      3584 < (List.replicate 3585 (0 : Byte)).length := by
  refine ⟨rfl, by decide, ?_, ?_⟩
  · rw [List.length_replicate]
  · rw [List.length_replicate]; decide

/-- A running core at `pc`. -/
def runningAt (pc w : Nat) : State := { at' pc w with lifecycle := .running, running := true }

theorem witness_RunLoopHaltsOrSteps : (runningAt 0x1000 0).lifecycle = .running ∧
    4096 ≤ (runningAt 0x1000 0).pc.toNat ∧ (runningAt 0xFFF 0).pc.toNat < 4096 := by decide

theorem witness_ResetEndsTheRun : (runningAt 0x200 0x1200).lifecycle = .running := rfl

theorem witness_CompletionIsSignalledExactlyOnce : (runningAt 0xFFE 0).lifecycle = .running ∧
    (continuousRun 2 (runningAt 0xFFE 0)).2 = [.completeOut] := by decide

theorem witness_RunningLoopIsRepeatedSteps : (runningAt 0x200 0x1200).lifecycle = .running ∧
    ∃ t, continuousRun 2 (runningAt 0x200 0x1200) = (t, []) := ⟨rfl, _, rfl⟩

theorem witness_AccessorsReturnTheStateOrReject : (15 : RegIdx).toNat < 16 ∧ 16 ≤ 16 ∧ 4095 < 4096 ∧
    4096 ≤ 4096 := by decide

theorem witness_ShiftSourceIsAnArgument_other : (Instr.sub 1 2).mnemonic ≠ .shr := by decide

theorem witness_ShiftSourceIsAnArgument_fetch : (at' 0xFFE 0x8016).lifecycle ≠ .faulted ∧
    (at' 0xFFE 0x8016).pc.toNat + 1 ≤ 0xFFF := by decide

theorem witness_ShiftSourceIsAnArgument_no_fetch : faultedCore.lifecycle = .faulted ∧
    0xFFF ≤ (at' 0xFFF 0).pc.toNat := by decide

theorem witness_ShiftSourceIsAnArgument_host : HostCommand.reset ≠ .step ∧ HostCommand.reset ≠ .invokeLoop := by
  decide

theorem witness_EitherShiftSourceKeepsTheInvariant : State.Inv (at' 0x200 0x8016) ∧
    (∃ t, stepWith .y (at' 0x200 0x8016) = .next t) ∧
    ∃ r, hostActionWith .y .step (at' 0x200 0x8016) = .done r := ⟨by decide, ⟨_, rfl⟩, _, rfl⟩

end Sys2Proof.Tests
end

section
/-!
PROOFS. The skips on an immediate (40_control_flow.md R69, R70). Both are `State.skipIf` of a
condition, so its frame and its halting corner are stated once, for every condition.
-/

namespace Sys2Proof.Machine

@[simp] theorem exec_seImm (x : RegIdx) (nn : Byte) (s : State) :
    exec (.seImm x nn) s = .next (s.skipIf (s.readV x == nn)) := rfl

@[simp] theorem exec_sneImm (x : RegIdx) (nn : Byte) (s : State) :
    exec (.sneImm x nn) s = .next (s.skipIf (s.readV x != nn)) := rfl

theorem State.skipIf_pc_of_true {s : State} {c : Bool} (h : c = true) :
    (s.skipIf c).pc = s.pc + 4 := by
  rw [State.skipIf_pc, if_pos h]

theorem State.skipIf_pc_of_false {s : State} {c : Bool} (h : c = false) :
    (s.skipIf c).pc = s.pc + 2 := by
  rw [State.skipIf_pc, h]; rfl

/-- A skip writes `PC` alone, whether it is taken or not (R19). -/
theorem State.skipIf_pcFrame (s : State) (c : Bool) : PcFrame s (s.skipIf c) := by
  cases c
  case false => exact .of_pc s (s.pc + 2)
  case true => exact .of_pc s (s.pc + 4)

/-- From the last word of memory a skip leaves memory both ways: to 0x1000 or to 0x1002 (R69, R70). -/
theorem State.skipIf_atHalt {s : State} (h : s.pc = 0xFFE) (c : Bool) :
    (s.skipIf c).atHalt = true := by
  rw [State.atHalt_iff, State.skipIf_pc, h]
  cases c <;> decide

/-- Settles O21: SE is `skipIf` of the equality test. -/
theorem skipIfEqualsImmediate : Obligations.SkipIfEqualsImmediate := by
  intro x nn s
  refine ⟨_, exec_seImm x nn s, fun heq => ?taken, fun hne => ?notTaken, s.skipIf_pcFrame _,
    fun hpc => State.skipIf_atHalt hpc _⟩
  case taken => exact State.skipIf_pc_of_true (beq_iff_eq.2 heq)
  case notTaken => exact State.skipIf_pc_of_false (beq_eq_false_iff_ne.2 hne)

/-- Settles O22: SNE is `skipIf` of the inequality test. -/
theorem skipIfDiffersFromImmediate : Obligations.SkipIfDiffersFromImmediate := by
  intro x nn s
  refine ⟨_, exec_sneImm x nn s, fun hne => ?taken, fun heq => ?notTaken, s.skipIf_pcFrame _,
    fun hpc => State.skipIf_atHalt hpc _⟩
  case taken => exact State.skipIf_pc_of_true (bne_iff_ne.2 hne)
  case notTaken => exact State.skipIf_pc_of_false (bne_eq_false_iff_eq.2 heq)

end Sys2Proof.Machine
end

section
/-!
PROOFS. The immediate load and add (41_immediate.md R74, R75). Both write one data register and
advance, so what such a write reads back, keeps and frames is stated once, for every register and byte.
-/

namespace Sys2Proof.Machine

@[simp] theorem exec_ldImm (x : RegIdx) (nn : Byte) (s : State) :
    exec (.ldImm x nn) s = .next (s.writeV x nn).advance := rfl

@[simp] theorem exec_addImm (x : RegIdx) (nn : Byte) (s : State) :
    exec (.addImm x nn) s = .next (s.writeV x (s.readV x + nn)).advance := rfl

@[simp] theorem State.readV_writeV_same (s : State) (x : RegIdx) (b : Byte) :
    (s.writeV x b).readV x = b := by
  rw [State.readV_writeV, if_pos rfl]

theorem State.readV_writeV_of_ne (s : State) {x r : RegIdx} (b : Byte) (h : r ≠ x) :
    (s.writeV x b).readV r = s.readV r := by
  rw [State.readV_writeV, if_neg h]

/-- Writing `Vx` and advancing keeps every register but `Vx`, `VF` included when `x` is not F (R16). -/
theorem State.writeV_advance_sameRegistersBut (s : State) (x : RegIdx) (b : Byte) :
    SameRegistersBut (· = x) s (s.writeV x b).advance :=
  fun _ hr => s.readV_writeV_of_ne b hr

/-- Writing a data register and advancing touches nothing but the registers and `PC`. -/
theorem State.writeV_advance_registerFrame (s : State) (x : RegIdx) (b : Byte) :
    RegisterFrame s (s.writeV x b).advance :=
  .of_update s _ _

theorem SameRegistersBut.trans {written : RegIdx → Prop} {s u t : State}
    (hsu : SameRegistersBut written s u) (hut : SameRegistersBut written u t) :
    SameRegistersBut written s t :=
  fun r hr => (hut r hr).trans (hsu r hr)

/-- Settles O26: LD is a write of `Vx` and the advance. -/
theorem loadImmediateWritesVx : Obligations.LoadImmediateWritesVx := by
  intro x nn s
  exact ⟨_, exec_ldImm x nn s, s.readV_writeV_same x nn, s.writeV_advance_sameRegistersBut x nn, rfl,
    s.writeV_advance_registerFrame x nn⟩

/-- The sum that ADD leaves in its register, modulo 256 (R75). -/
theorem State.readV_addImm_toNat (s : State) (x : RegIdx) (nn : Byte) :
    ((s.writeV x (s.readV x + nn)).advance.readV x).toNat = ((s.readV x).toNat + nn.toNat) % 256 := by
  rw [State.readV_advance, State.readV_writeV_same, BitVec.toNat_add]

/-- Settles O27: ADD is a write of the sum to `Vx` and the advance; after a load it reads the loaded byte. -/
theorem addImmediateWritesNoFlag : Obligations.AddImmediateWritesNoFlag := by
  refine ⟨fun x nn s => ?add, fun x a b s u t hload hadd => ?loadThenAdd⟩
  case add =>
    exact ⟨_, exec_addImm x nn s, s.readV_addImm_toNat x nn, s.writeV_advance_sameRegistersBut x _, rfl,
      s.writeV_advance_registerFrame x _⟩
  case loadThenAdd =>
    cases hload
    cases hadd
    refine ⟨?_, (s.writeV_advance_sameRegistersBut x a).trans (State.writeV_advance_sameRegistersBut _ x _)⟩
    rw [State.readV_addImm_toNat, State.readV_advance, State.readV_writeV_same]

end Sys2Proof.Machine
end

section
/-!
PROOFS. The copy, the logic and the addition of two registers (42_alu.md R76 to R80). The first four write
`Vx` and advance; the addition is a write of `Vx`, then of the flag, and the advance, whose reads and frame
are stated once, for every result and flag.
-/

namespace Sys2Proof.Machine

@[simp] theorem exec_ldReg (x y : RegIdx) (s : State) :
    exec (.ldReg x y) s = .next (s.writeV x (s.readV y)).advance := rfl

@[simp] theorem exec_orReg (x y : RegIdx) (s : State) :
    exec (.orReg x y) s = .next (s.writeV x (s.readV x ||| s.readV y)).advance := rfl

@[simp] theorem exec_andReg (x y : RegIdx) (s : State) :
    exec (.andReg x y) s = .next (s.writeV x (s.readV x &&& s.readV y)).advance := rfl

@[simp] theorem exec_xorReg (x y : RegIdx) (s : State) :
    exec (.xorReg x y) s = .next (s.writeV x (s.readV x ^^^ s.readV y)).advance := rfl

@[simp] theorem exec_addReg (x y : RegIdx) (s : State) :
    exec (.addReg x y) s =
      .next (s.writeVThenFlag x (s.readV x + s.readV y) (carryFlag (s.readV x) (s.readV y))).advance := rfl

/-- What writing `Vx` and advancing leaves alone, and the advance itself. -/
theorem State.writeV_advance_frames (s : State) (x : RegIdx) (b : Byte) :
    SameRegistersBut (· = x) s (s.writeV x b).advance ∧ (s.writeV x b).advance.pc = s.pc + 2 ∧
      RegisterFrame s (s.writeV x b).advance :=
  ⟨s.writeV_advance_sameRegistersBut x b, rfl, s.writeV_advance_registerFrame x b⟩

/-- Settles O28: LD is a write of `Vy` to `Vx` and the advance. -/
theorem copyRegister : Obligations.CopyRegister := by
  intro x y s
  exact ⟨_, exec_ldReg x y s, s.readV_writeV_same x _, s.writeV_advance_frames x _⟩

/-- Settles O29: each of the three is a write of the bitwise result to `Vx` and the advance. -/
theorem logicWritesVxAndNoFlag : Obligations.LogicWritesVxAndNoFlag := by
  intro x y s
  refine ⟨⟨_, exec_orReg x y s, fun k => ?or, s.writeV_advance_frames x _⟩,
    ⟨_, exec_andReg x y s, fun k => ?and, s.writeV_advance_frames x _⟩,
    ⟨_, exec_xorReg x y s, fun k => ?xor, s.writeV_advance_frames x _⟩⟩
  case or => rw [State.readV_advance, State.readV_writeV_same, BitVec.getLsbD_or]
  case and => rw [State.readV_advance, State.readV_writeV_same, BitVec.getLsbD_and]
  case xor => rw [State.readV_advance, State.readV_writeV_same, BitVec.getLsbD_xor]

/-- The flag is written last, so `VF` reads as the flag whatever the destination is (R17). -/
@[simp] theorem State.readV_writeVThenFlag_vf (s : State) (x : RegIdx) (b f : Byte) :
    (s.writeVThenFlag x b f).readV vf = f := by
  rw [State.readV_writeVThenFlag, if_pos rfl]

theorem State.readV_writeVThenFlag_same (s : State) {x : RegIdx} (b f : Byte) (h : x ≠ vf) :
    (s.writeVThenFlag x b f).readV x = b := by
  rw [State.readV_writeVThenFlag, if_neg h, if_pos rfl]

theorem State.writeVThenFlag_sameRegistersBut (s : State) (x : RegIdx) (b f : Byte) :
    SameRegistersBut (fun r => r = x ∨ r = vf) s (s.writeVThenFlag x b f) := by
  intro r hr
  obtain ⟨hx, hvf⟩ := not_or.1 hr
  rw [State.readV_writeVThenFlag, if_neg hvf, if_neg hx]

/-- What writing `Vx`, then `VF`, and advancing leaves alone, and the advance itself. -/
theorem State.writeVThenFlag_advance_frames (s : State) (x : RegIdx) (b f : Byte) :
    SameRegistersBut (fun r => r = x ∨ r = vf) s (s.writeVThenFlag x b f).advance ∧
      (s.writeVThenFlag x b f).advance.pc = s.pc + 2 ∧
      RegisterFrame s (s.writeVThenFlag x b f).advance :=
  ⟨s.writeVThenFlag_sameRegistersBut x b f, rfl, .of_update s _ _⟩

theorem carryFlag_of_gt {a b : Byte} (h : a.toNat + b.toNat > 255) : carryFlag a b = 1 := by
  rw [carryFlag, decide_eq_true h, flagByte_true]

theorem carryFlag_of_le {a b : Byte} (h : a.toNat + b.toNat ≤ 255) : carryFlag a b = 0 := by
  rw [carryFlag, decide_eq_false (Nat.not_lt.2 h), flagByte_false]

/-- Settles O30: ADD writes the sum to `Vx`, then the carry to `VF`, and advances. -/
theorem addRegistersWritesCarry : Obligations.AddRegistersWritesCarry := by
  intro x y s
  refine ⟨_, exec_addReg x y s, fun hx => ?sum, fun hgt => ?carry, fun hle => ?noCarry,
    s.writeVThenFlag_advance_frames x _ _⟩
  case sum => rw [State.readV_advance, State.readV_writeVThenFlag_same s _ _ hx, BitVec.toNat_add]
  case carry => rw [State.readV_advance, State.readV_writeVThenFlag_vf, carryFlag_of_gt hgt]
  case noCarry => rw [State.readV_advance, State.readV_writeVThenFlag_vf, carryFlag_of_le hle]

end Sys2Proof.Machine
end

section
/-!
PROOFS. The address register (43_address_random.md R85, 10_state.md R18): LD I is its one writer, so the bound
0xFFF is kept by every instruction and by every step.
-/

namespace Sys2Proof.Machine

@[simp] theorem exec_ldI (nnn : Addr) (s : State) :
    exec (.ldI nnn) s = .next (s.setI (zextAddr nnn)).advance := rfl

/-- The largest value LD I can load is the last address of memory (R18, R59). -/
theorem zextAddr_toNat_le (nnn : Addr) : (zextAddr nnn).toNat ≤ 0xFFF := by
  rw [zextAddr_toNat]
  exact Nat.le_of_lt_succ nnn.isLt

/-- No instruction but LD I writes `I`. CALL and DRW keep it on their faults too. -/
theorem exec_i_of_ne_ldI {i : Instr} {s t : State} (h : exec i s = .next t)
    (hne : ∀ nnn, i ≠ .ldI nnn) : t.i = s.i := by
  cases i
  case ldI nnn => exact absurd rfl (hne nnn)
  case call nnn =>
    obtain ⟨_, rfl⟩ | ⟨_, rfl⟩ := execCall_cases h
    · rfl
    · rfl
  case drw x y n =>
    obtain ⟨_, rfl⟩ | ⟨_, rfl⟩ := execDrw_cases h
    · rfl
    · rfl
  case seImm x nn => cases h; exact s.skipIf_i _
  case sneImm x nn => cases h; exact s.skipIf_i _
  case seReg x y n => cases h; exact s.skipIf_i _
  all_goals cases h; rfl

theorem exec_keeps_addressInRange {i : Instr} {s t : State} (h : exec i s = .next t)
    (hi : s.AddressInRange) : t.AddressInRange := by
  by_cases hld : ∃ nnn, i = .ldI nnn
  · obtain ⟨nnn, rfl⟩ := hld
    cases h
    exact zextAddr_toNat_le nnn
  · have hkeep : t.i = s.i := exec_i_of_ne_ldI h fun nnn heq => hld ⟨nnn, heq⟩
    exact (congrArg BitVec.toNat hkeep).trans_le hi

/-- Latching `IR` and the fetch fault both keep `I`, so what every instruction keeps a step keeps. -/
theorem step_keeps_addressInRange {s t : State} (h : step s = .next t) (hi : s.AddressInRange) :
    t.AddressInRange := by
  obtain ⟨-, ⟨-, hexec⟩ | ⟨-, rfl⟩⟩ := step_next_cases h
  · exact exec_keeps_addressInRange hexec hi
  · exact hi

/-- Settles O34: LD I is a write of the zero-extended field to `I` and the advance; every other instruction
keeps `I`, and with it every step keeps the bound. -/
theorem loadIWritesIAndNothingElseDoes : Obligations.LoadIWritesIAndNothingElseDoes := by
  refine ⟨fun nnn s => ?load, fun i s t h hne => exec_i_of_ne_ldI h hne,
    fun s t h hi => step_keeps_addressInRange h hi⟩
  case load =>
    exact ⟨_, exec_ldI nnn s, zextAddr_toNat nnn, rfl, .of_v rfl _, .of_eq rfl rfl, .of_mem rfl, .of_fb rfl,
      ⟨rfl, rfl, rfl, rfl, rfl⟩, rfl⟩

end Sys2Proof.Machine
end

section
/-!
PROOFS. The unassigned encodings (45_unassigned.md R90 to R95): all 13 share the handler `NOP()`, which is the
default advance.
-/

namespace Sys2Proof.Machine

/-- The arm of every no-op row is the one handler, so executing it is the default advance (R95). -/
theorem exec_of_isNoOp {i : Instr} (h : i.IsNoOp) (s : State) : exec i s = .next s.advance := by
  cases i
  case nop0 | nop9 | nopE | nopF | nop87 | nop88 | nop89 | nop8A | nop8B | nop8C | nop8D | nop8E | nop8F => rfl
  all_goals simp [Instr.IsNoOp, Instr.mnemonic] at h

/-- The default advance writes `PC` alone (R19). -/
theorem State.advance_pcFrame (s : State) : PcFrame s s.advance := .of_pc s (s.pc + 2)

/-- Settles O39: a no-op is the default advance, which adds 2 to `PC` and writes nothing else. -/
theorem noOpsOnlyAdvance : Obligations.NoOpsOnlyAdvance := by
  intro i s h
  exact ⟨_, exec_of_isNoOp h s, s.advance_pc, s.advance_pcFrame⟩

end Sys2Proof.Machine
end

section
/-!
PROOFS. The encoding (30_encoding.md R55 to R65). A format's fields read back what it was built from, and a word
is rebuilt from its fields; so `decodeWord` and `encode` are inverse, and what a row or a no-op says of an
instruction it says of the instruction's word.
-/

namespace Sys2Proof

/-! ### The fields of the three formats (R57, R58) -/

@[simp] theorem fieldOp_formatA (op : Nibble) (nnn : Addr) : fieldOp (formatA op nnn) = op := by
  apply BitVec.eq_of_getLsbD_eq
  intro i hi
  simp [fieldOp, formatA_getLsbD, hi]

@[simp] theorem fieldNnn_formatA (op : Nibble) (nnn : Addr) : fieldNnn (formatA op nnn) = nnn := by
  apply BitVec.eq_of_getLsbD_eq
  intro i hi
  simp [fieldNnn, formatA_getLsbD, hi]

@[simp] theorem fieldOp_formatB (op : Nibble) (x : RegIdx) (nn : Byte) : fieldOp (formatB op x nn) = op :=
  fieldOp_formatA op (x ++ nn)

@[simp] theorem fieldX_formatB (op : Nibble) (x : RegIdx) (nn : Byte) : fieldX (formatB op x nn) = x := by
  apply BitVec.eq_of_getLsbD_eq
  intro i hi
  simp [fieldX, formatB_getLsbD, hi, show 8 + i < 12 by omega]

@[simp] theorem fieldNn_formatB (op : Nibble) (x : RegIdx) (nn : Byte) : fieldNn (formatB op x nn) = nn := by
  apply BitVec.eq_of_getLsbD_eq
  intro i hi
  simp [fieldNn, formatB_getLsbD, hi, show i < 12 by omega]

@[simp] theorem fieldOp_formatC (op : Nibble) (x y : RegIdx) (n : Nibble) : fieldOp (formatC op x y n) = op :=
  fieldOp_formatB op x (y ++ n)

@[simp] theorem fieldX_formatC (op : Nibble) (x y : RegIdx) (n : Nibble) : fieldX (formatC op x y n) = x :=
  fieldX_formatB op x (y ++ n)

@[simp] theorem fieldY_formatC (op : Nibble) (x y : RegIdx) (n : Nibble) : fieldY (formatC op x y n) = y := by
  apply BitVec.eq_of_getLsbD_eq
  intro i hi
  simp [fieldY, formatC_getLsbD, hi, show 4 + i < 12 by omega, show 4 + i < 8 by omega]

@[simp] theorem fieldN_formatC (op : Nibble) (x y : RegIdx) (n : Nibble) : fieldN (formatC op x y n) = n := by
  apply BitVec.eq_of_getLsbD_eq
  intro i hi
  simp [fieldN, formatC_getLsbD, hi, show i < 12 by omega, show i < 8 by omega]

/-! ### A word is rebuilt from its fields (R57) -/

theorem formatA_of_fields {w : Word} {op : Nibble} (h : fieldOp w = op) : formatA op (fieldNnn w) = w := by
  subst h
  apply BitVec.eq_of_getLsbD_eq
  intro i hi
  rw [formatA_getLsbD]
  by_cases h12 : i < 12
  · simp [fieldNnn, h12]
  · simp [fieldOp, h12, show i - 12 < 4 by omega, show 12 + (i - 12) = i by omega]

theorem fieldX_append_fieldNn (w : Word) : (fieldX w ++ fieldNn w : BitVec 12) = fieldNnn w := by
  apply BitVec.eq_of_getLsbD_eq
  intro i hi
  rw [BitVec.getLsbD_append]
  by_cases h8 : i < 8
  · simp [fieldNn, fieldNnn, h8, hi]
  · simp [fieldX, fieldNnn, h8, hi, show i - 8 < 4 by omega, show 8 + (i - 8) = i by omega]

theorem fieldY_append_fieldN (w : Word) : (fieldY w ++ fieldN w : BitVec 8) = fieldNn w := by
  apply BitVec.eq_of_getLsbD_eq
  intro i hi
  rw [BitVec.getLsbD_append]
  by_cases h4 : i < 4
  · simp [fieldN, fieldNn, h4, hi]
  · simp [fieldY, fieldNn, h4, hi, show i - 4 < 4 by omega, show 4 + (i - 4) = i by omega]

theorem formatB_of_fields {w : Word} {op : Nibble} (h : fieldOp w = op) :
    formatB op (fieldX w) (fieldNn w) = w := by
  rw [formatB, fieldX_append_fieldNn]
  exact formatA_of_fields h

theorem formatC_of_fields {w : Word} {op n : Nibble} (h : fieldOp w = op) (hn : fieldN w = n) :
    formatC op (fieldX w) (fieldY w) n = w := by
  subst hn
  rw [formatC, fieldY_append_fieldN]
  exact formatB_of_fields h

/-! ### Decoding and encoding are inverse -/

theorem decodeWord_encode (i : Instr) : decodeWord (encode i) = i := by
  cases i <;> simp [encode, decodeWord, decodeFamily8]

theorem nibble_cases (a : Nibble) :
    a = 0x0 ∨ a = 0x1 ∨ a = 0x2 ∨ a = 0x3 ∨ a = 0x4 ∨ a = 0x5 ∨ a = 0x6 ∨ a = 0x7 ∨
      a = 0x8 ∨ a = 0x9 ∨ a = 0xA ∨ a = 0xB ∨ a = 0xC ∨ a = 0xD ∨ a = 0xE ∨ a = 0xF := by
  revert a
  decide

/-- In family 8 every value of `n` selects an instruction that keeps `x` and `y` (R61). -/
theorem encode_decodeFamily8 {w : Word} (hop : fieldOp w = 0x8) : encode (decodeFamily8 w) = w := by
  obtain h | h | h | h | h | h | h | h | h | h | h | h | h | h | h | h := nibble_cases (fieldN w) <;>
    simp only [decodeFamily8, h] <;> exact formatC_of_fields hop h

theorem encode_decodeWord (w : Word) : encode (decodeWord w) = w := by
  obtain h | h | h | h | h | h | h | h | h | h | h | h | h | h | h | h := nibble_cases (fieldOp w) <;>
    simp only [decodeWord, h]
  · exact formatA_of_fields h
  · exact formatA_of_fields h
  · exact formatA_of_fields h
  · exact formatB_of_fields h
  · exact formatB_of_fields h
  · exact formatC_of_fields h rfl
  · exact formatB_of_fields h
  · exact formatB_of_fields h
  · exact encode_decodeFamily8 h
  · exact formatC_of_fields h rfl
  · exact formatA_of_fields h
  · exact formatA_of_fields h
  · exact formatB_of_fields h
  · exact formatC_of_fields h rfl
  · exact formatB_of_fields h
  · exact formatB_of_fields h

/-- Settles O1: the bytes are put together to the word again, and the word decodes to its instruction. -/
theorem decodeOfEncodeIsSame : Obligations.DecodeOfEncodeIsSame := by
  intro i rest
  calc decode (encodeBytes i ++ rest)
      = .ok (decodeWord (wordOfBytes (highByte (encode i)) (lowByte (encode i))), rest) := rfl
    _ = .ok (i, rest) := by rw [wordOfBytes_highByte_lowByte, decodeWord_encode]

/-- Settles O2, by the fields each format is rebuilt from. -/
theorem encodeOfDecodeIsSame : Obligations.EncodeOfDecodeIsSame := encode_decodeWord

/-! ### The opcode table and the no-op space -/

/-- `Laws.RowHoldsEncoding` for an instruction of any row. -/
theorem exists_row_of_encode (i : Instr) :
    ∃ r ∈ opcodeTable, r.mnemonic = i.mnemonic ∧ r.holds (encode i) = true := by
  cases i with
  | jp nnn => exact (Laws.RowHoldsEncoding.jp nnn).2
  | call nnn => exact (Laws.RowHoldsEncoding.call nnn).2
  | seImm x nn => exact (Laws.RowHoldsEncoding.seImm x nn).2
  | sneImm x nn => exact (Laws.RowHoldsEncoding.sneImm x nn).2
  | seReg x y n => exact (Laws.RowHoldsEncoding.seReg x y n).2
  | ldImm x nn => exact (Laws.RowHoldsEncoding.ldImm x nn).2
  | addImm x nn => exact (Laws.RowHoldsEncoding.addImm x nn).2
  | ldReg x y => exact (Laws.RowHoldsEncoding.ldReg x y).2
  | orReg x y => exact (Laws.RowHoldsEncoding.orReg x y).2
  | andReg x y => exact (Laws.RowHoldsEncoding.andReg x y).2
  | xorReg x y => exact (Laws.RowHoldsEncoding.xorReg x y).2
  | addReg x y => exact (Laws.RowHoldsEncoding.addReg x y).2
  | sub x y => exact (Laws.RowHoldsEncoding.sub x y).2
  | shr x y => exact (Laws.RowHoldsEncoding.shr x y).2
  | nop87 x y => exact (Laws.RowHoldsEncoding.nop87 x y).2
  | nop88 x y => exact (Laws.RowHoldsEncoding.nop88 x y).2
  | nop89 x y => exact (Laws.RowHoldsEncoding.nop89 x y).2
  | nop8A x y => exact (Laws.RowHoldsEncoding.nop8A x y).2
  | nop8B x y => exact (Laws.RowHoldsEncoding.nop8B x y).2
  | nop8C x y => exact (Laws.RowHoldsEncoding.nop8C x y).2
  | nop8D x y => exact (Laws.RowHoldsEncoding.nop8D x y).2
  | nop8E x y => exact (Laws.RowHoldsEncoding.nop8E x y).2
  | nop8F x y => exact (Laws.RowHoldsEncoding.nop8F x y).2
  | ldI nnn => exact (Laws.RowHoldsEncoding.ldI nnn).2
  | jpV0 nnn => exact (Laws.RowHoldsEncoding.jpV0 nnn).2
  | rnd x nn => exact (Laws.RowHoldsEncoding.rnd x nn).2
  | drw x y n => exact (Laws.RowHoldsEncoding.drw x y n).2
  | nop0 nnn => exact (Laws.RowHoldsEncoding.nop0 nnn).2
  | nop9 x y n => exact (Laws.RowHoldsEncoding.nop9 x y n).2
  | nopE x nn => exact (Laws.RowHoldsEncoding.nopE x nn).2
  | nopF x nn => exact (Laws.RowHoldsEncoding.nopF x nn).2

/-- The row of the instruction a word decodes to holds the word. -/
theorem exists_row_of_word (w : Word) :
    ∃ r ∈ opcodeTable, r.mnemonic = (decodeWord w).mnemonic ∧ r.holds w = true := by
  have h := exists_row_of_encode (decodeWord w)
  rwa [encode_decodeWord] at h

/-- No word lies in two rows. -/
def OpcodeRow.Disjoint (r r' : OpcodeRow) : Prop := ∀ w : Word, ¬ (r.holds w = true ∧ r'.holds w = true)

/-- Rows whose patterns differ on a bit of both masks are disjoint: a word of both would agree with both there. -/
theorem OpcodeRow.disjoint_of_pattern_ne {r r' : OpcodeRow}
    (h : r.pattern &&& r'.mask ≠ r'.pattern &&& r.mask) : r.Disjoint r' := by
  rintro w ⟨hr, hr'⟩
  have hp : w &&& r.mask = r.pattern := eq_of_beq hr
  have hp' : w &&& r'.mask = r'.pattern := eq_of_beq hr'
  apply h
  rw [← hp, ← hp', BitVec.and_assoc, BitVec.and_assoc, BitVec.and_comm r.mask]

theorem OpcodeRow.disjoint_symm : Std.Symm OpcodeRow.Disjoint :=
  ⟨fun _ _ h w hw => h w hw.symm⟩

theorem opcodeTable_pairwise_disjoint : opcodeTable.Pairwise OpcodeRow.Disjoint := by
  have hne : opcodeTable.Pairwise fun r r' => r.pattern &&& r'.mask ≠ r'.pattern &&& r.mask := by decide
  exact hne.imp OpcodeRow.disjoint_of_pattern_ne

/-- Settles O3: the patterns make the rows disjoint, so the row of the instruction decoded is the only one that
holds the word. -/
theorem opcodeRowsPartitionTheWords : Obligations.OpcodeRowsPartitionTheWords := by
  refine ⟨fun w => ?cover, fun w r hr hw => ?agree, opcodeTable_pairwise_disjoint⟩
  case cover =>
    obtain ⟨r, hr, -, hw⟩ := exists_row_of_word w
    exact ⟨r, hr, hw⟩
  case agree =>
    obtain ⟨q, hq, hmn, hqw⟩ := exists_row_of_word w
    have hsymm := OpcodeRow.disjoint_symm
    have hqr : q = r := by
      by_contra hne
      exact opcodeTable_pairwise_disjoint.forall hq hr hne w ⟨hqw, hw⟩
    rw [← hqr, hmn]

/-- The unassigned instructions by the fields of their words (R65). -/
theorem Instr.isNoOp_iff_encode (i : Instr) :
    i.IsNoOp ↔ fieldOp (encode i) ∈ [0x0, 0x9, 0xE, 0xF] ∨
      (fieldOp (encode i) = 0x8 ∧ 7 ≤ (fieldN (encode i)).toNat) := by
  cases i <;> simp [Instr.IsNoOp, Instr.mnemonic, encode]

/-- Settles O5: the instruction decoded has the word as its encoding. -/
theorem noOpSpaceIsExactly : Obligations.NoOpSpaceIsExactly := by
  intro w
  rw [Instr.isNoOp_iff_encode, encode_decodeWord]

/-- A word that is written out as an encoding decodes to the instruction encoded. -/
theorem decodeWord_of_eq_encode {w : Word} {i : Instr} (h : w = encode i) : decodeWord w = i := by
  rw [h, decodeWord_encode]

/-- Settles O4: the word of each clause is the encoding of the instruction it names, in the format of its row. -/
theorem dispatchFollowsTheTables : Obligations.DispatchFollowsTheTables := by
  intro op x y n nn nnn d
  refine ⟨?_, ?_, ?_, ?_, ?_, ?_, ?_, ?_, ?_, ?_, ?_, ?_, ?_, ?_, ?_, ?noOp, ?_, ?_, ?_, ?_, ?_, ?_, ?_⟩
  case noOp =>
    rintro rfl hn
    have hop : fieldOp (formatC 0x8 x y n) = 0x8 := fieldOp_formatC 0x8 x y n
    have hsub : fieldN (formatC 0x8 x y n) = n := fieldN_formatC 0x8 x y n
    exact (noOpSpaceIsExactly (formatC 0x8 x y n)).2 (.inr ⟨hop, hsub.symm ▸ hn⟩)
  all_goals
    intros
    subst_vars
    exact decodeWord_of_eq_encode rfl

/-- Settles O6, by evaluating the decoder. -/
theorem specWordsDecode : Obligations.SpecWordsDecode := by
  unfold Obligations.SpecWordsDecode
  decide

end Sys2Proof
end

section
/-!
PROOFS. What an instruction can do, said once (`Effect`) for either value of `SHR_SOURCE`; the rules that
constrain every instruction are then one case for each kind of effect.
-/

namespace Sys2Proof.Machine

/-- The ways an instruction `i` can take a state to the next one. -/
inductive Effect (i : Instr) (s : State) : State → Prop
  /-- the no-ops (45_unassigned.md R95) -/
  | noOp : i.IsNoOp → Effect i s s.advance
  /-- the jumps that push nothing; 0x10FE is the largest target (10_state.md R21) -/
  | jump {target : Word} : i.IsJump → target.toNat ≤ 0x10FE → Effect i s (s.setPc target)
  | skip {c : Bool} : i.mnemonic ∈ [.seImm, .sneImm, .seReg] → Effect i s (s.skipIf c)
  | push {nnn : Addr} (below : s.sp.val < Config.stackDepth) :
      i = .call nnn → Effect i s ((s.pushReturn below s.pc).setPc (zextAddr nnn))
  | overflow {nnn : Addr} : i = .call nnn → s.sp.val = 16 → Effect i s (s.raise (.stackOverflow s.pc))
  | write {x : RegIdx} {b : Byte} : i.destination? = some x → Effect i s (s.writeV x b).advance
  | writeFlag {x : RegIdx} {b flag : Byte} :
      i.destination? = some x → i.WritesFlag → Effect i s (s.writeVThenFlag x b flag).advance
  | loadI {nnn : Addr} : i = .ldI nnn → Effect i s (s.setI (zextAddr nnn)).advance
  | random {x : RegIdx} {b : Byte} : i.destination? = some x → Effect i s (s.draw8.2.writeV x b).advance
  | draw {x y : RegIdx} {n : Nibble} {f : Framebuffer} {flag : Byte} :
      i = .drw x y n → Effect i s ((s.setFb f).writeV vf flag).advance
  | pastMemory {x y : RegIdx} {n : Nibble} : i = .drw x y n → spriteInBounds s.i n = false →
      Effect i s (s.raise (.readOutOfBounds s.pc 0x1000))

theorem zextAddr_toNat_le_0x10FE (nnn : Addr) : (zextAddr nnn).toNat ≤ 0x10FE :=
  (zextAddr_toNat_le nnn).trans (by decide)

theorem offsetTarget_toNat_le (nnn : Addr) (b : Byte) : (offsetTarget nnn b).toNat ≤ 0x10FE := by
  have := nnn.isLt
  have := b.isLt
  rw [offsetTarget_toNat]
  omega

/-- What an instruction that answers a next state did, for either value of `SHR_SOURCE`. -/
theorem execWith_effect {source : Config.ShrSource} {i : Instr} {s t : State}
    (h : execWith source i s = .next t) : Effect i s t := by
  cases i
  case call nnn =>
    obtain ⟨hsp, rfl⟩ | ⟨hsp, rfl⟩ := execCall_cases h
    · exact .push hsp rfl
    · exact .overflow rfl hsp
  case drw x y n =>
    obtain ⟨-, rfl⟩ | ⟨hb, rfl⟩ := execDrw_cases h
    · exact .draw rfl
    · exact .pastMemory rfl hb
  all_goals cases h
  case jp nnn => exact .jump (by simp [Instr.IsJump, Instr.mnemonic]) (zextAddr_toNat_le_0x10FE nnn)
  case jpV0 nnn => exact .jump (by simp [Instr.IsJump, Instr.mnemonic]) (offsetTarget_toNat_le nnn _)
  case seImm | sneImm | seReg => exact .skip (by simp [Instr.mnemonic])
  case ldI nnn => exact .loadI rfl
  case rnd x nn => exact .random rfl
  case addReg | sub | shr => exact .writeFlag rfl (by simp [Instr.WritesFlag, Instr.mnemonic])
  case ldImm | addImm | ldReg | orReg | andReg | xorReg => exact .write rfl
  all_goals exact .noOp (by simp [Instr.IsNoOp, Instr.mnemonic])

/-- What an instruction of this hardware that answers a next state did. -/
theorem exec_effect {i : Instr} {s t : State} (h : exec i s = .next t) : Effect i s t :=
  execWith_effect ((execWith_shrSource i s).trans h)

namespace Effect

variable {i : Instr} {s t : State}

/-- No instruction writes memory (20_memory.md R40). -/
theorem mem_eq (h : Effect i s t) : t.mem = s.mem := by
  cases h
  case skip => exact s.skipIf_mem _
  all_goals rfl

/-- `IR` and `programLength` are written by the fetch and the load alone (10_state.md R29, R30). -/
theorem ir_eq (h : Effect i s t) : t.ir = s.ir := by
  cases h
  case skip => exact s.skipIf_ir _
  all_goals rfl

theorem programLength_eq (h : Effect i s t) : t.programLength = s.programLength := by
  cases h
  case skip => exact s.skipIf_programLength _
  all_goals rfl

/-- Only DRW writes the framebuffer (20_memory.md R37). -/
theorem fb_eq (h : Effect i s t) (hi : i.mnemonic ≠ .drw) : t.fb = s.fb := by
  cases h
  case skip => exact s.skipIf_fb _
  case draw hi' => subst hi'; exact absurd rfl hi
  all_goals rfl

/-- Only CALL moves `SP` (10_state.md R23). -/
theorem sp_eq (h : Effect i s t) (hi : ∀ nnn, i ≠ .call nnn) : t.sp = s.sp := by
  cases h
  case skip => exact s.skipIf_sp _
  case push hi' => exact absurd hi' (hi _)
  all_goals rfl

/-- Either the bookkeeping is kept, or a core fault was raised (10_state.md R27 to R31). -/
theorem sameBookkeeping_or_raise (h : Effect i s t) :
    SameBookkeeping s t ∨ ∃ record ≠ FaultRecord.none, t = s.raise record := by
  cases h
  case skip c _ => exact .inl ⟨s.skipIf_ir c, s.skipIf_lifecycle c, s.skipIf_running c, s.skipIf_programLength c,
    s.skipIf_fault c⟩
  case overflow => exact .inr ⟨.stackOverflow s.pc, nofun, rfl⟩
  case pastMemory => exact .inr ⟨.readOutOfBounds s.pc 0x1000, nofun, rfl⟩
  all_goals exact .inl ⟨rfl, rfl, rfl, rfl, rfl⟩

/-- A register that is neither the destination nor a flag written keeps its value (10_state.md R14, R16). -/
theorem readV_eq (h : Effect i s t) {r : RegIdx} (hd : i.destination? ≠ some r)
    (hf : ¬ (i.WritesFlag ∧ r = vf)) : t.readV r = s.readV r := by
  cases h
  case skip => exact s.readV_skipIf _ r
  case write x b hx => exact s.readV_writeV_of_ne b fun hr => hd (hr ▸ hx)
  case random x b hx => exact s.draw8.2.readV_writeV_of_ne b fun hr => hd (hr ▸ hx)
  case writeFlag x b flag hx hw =>
    have hr : ¬ (r = x ∨ r = vf) := fun hr => hr.elim (fun hr => hd (hr ▸ hx)) fun hr => hf ⟨hw, hr⟩
    exact s.writeVThenFlag_sameRegistersBut x b flag r hr
  case draw x y n f flag hi =>
    have hw : i.WritesFlag := by simp [hi, Instr.WritesFlag, Instr.mnemonic]
    exact (s.setFb f).readV_writeV_of_ne flag fun hr => hf ⟨hw, hr⟩
  all_goals rfl

/-- Where `PC` goes: it stays on a fault, is a target of at most 0x10FE after a jump, and else moves by 2 or 4
(10_state.md R19, R21). -/
theorem pc_cases (h : Effect i s t) :
    t.pc = s.pc ∨ t.pc = s.pc + 2 ∨ t.pc = s.pc + 4 ∨ (i.IsJump ∧ t.pc.toNat ≤ 0x10FE) := by
  cases h
  case jump hi ht => exact .inr (.inr (.inr ⟨hi, ht⟩))
  case push nnn _ hi =>
    subst hi
    exact .inr (.inr (.inr ⟨by simp [Instr.IsJump, Instr.mnemonic], zextAddr_toNat_le_0x10FE nnn⟩))
  case skip c _ =>
    cases c
    · exact .inr (.inl rfl)
    · exact .inr (.inr (.inl rfl))
  case overflow => exact .inl rfl
  case pastMemory => exact .inl rfl
  all_goals exact .inr (.inl rfl)

end Effect

/-! ### The rules of the whole machine that are about one instruction -/

theorem toNat_add_even {a k : Word} (ha : a.toNat % 2 = 0) (hk : k.toNat % 2 = 0) : (a + k).toNat % 2 = 0 := by
  rw [BitVec.toNat_add]
  omega

/-- Settles O25: what is not a jump keeps `PC` or moves it by 2 or 4, also where the sum wraps. -/
theorem evenPcStaysEven : Obligations.EvenPcStaysEven := by
  intro i s t h hjump heven
  obtain hpc | hpc | hpc | ⟨hi, -⟩ := (exec_effect h).pc_cases
  · rw [hpc]
    exact heven
  · rw [hpc]
    exact toNat_add_even heven (by decide)
  · rw [hpc]
    exact toNat_add_even heven (by decide)
  · exact absurd hi hjump

/-- Settles O40, by the registers each effect writes. -/
theorem registersChangeOnlyAsListed : Obligations.RegistersChangeOnlyAsListed := by
  intro i s t r h hd hf
  exact (exec_effect h).readV_eq hd hf

/-- Settles O43: an effect keeps the bookkeeping or raises a fault, which writes the record and the lifecycle. -/
theorem instructionsKeepTheBookkeeping : Obligations.InstructionsKeepTheBookkeeping := by
  intro i s t h
  obtain hsame | ⟨record, hrecord, rfl⟩ := (exec_effect h).sameBookkeeping_or_raise
  · exact .inl hsame
  · exact .inr ⟨rfl, rfl, rfl, hrecord⟩

theorem exec_call_of_lt (nnn : Addr) {s : State} (h : s.sp.val < 16) :
    exec (.call nnn) s = .next ((s.pushReturn h s.pc).setPc (zextAddr nnn)) := dif_pos h

theorem exec_call_of_full (nnn : Addr) {s : State} (h : s.sp.val = 16) :
    exec (.call nnn) s = .next (s.raise (.stackOverflow s.pc)) := dif_neg h.not_lt

/-- The state a DRW in bounds leaves (44_draw.md R87). -/
def State.drawn (s : State) (x y : RegIdx) (n : Nibble) : State :=
  let c := drawSprite s.mem s.i.toNat (s.readV x) (s.readV y) n.toNat s.fb
  ((s.setFb c.1).writeV vf (flagByte c.2)).advance

theorem exec_drw_of_inBounds (x y : RegIdx) {n : Nibble} {s : State} (h : spriteInBounds s.i n = true) :
    exec (.drw x y n) s = .next (s.drawn x y n) := if_pos h

theorem exec_drw_of_pastMemory (x y : RegIdx) {n : Nibble} {s : State} (h : spriteInBounds s.i n = false) :
    exec (.drw x y n) s = .next (s.raise (.readOutOfBounds s.pc 0x1000)) :=
  if_neg (Bool.eq_false_iff.1 h)

/-- Settles O19: CALL pushes below capacity and overflows at 16; every other effect keeps `SP`. -/
theorem onlyCallMovesTheStackPointer : Obligations.OnlyCallMovesTheStackPointer := by
  refine ⟨fun i s t h => ⟨fun hi => (exec_effect h).sp_eq hi, ?below, ?full⟩,
    fun s => ⟨Nat.le_of_lt_succ s.sp.isLt, rfl⟩⟩
  case below =>
    rintro ⟨nnn, rfl⟩ hsp
    rw [exec_call_of_lt nnn hsp] at h
    cases h
    rfl
  case full =>
    rintro ⟨nnn, rfl⟩ hsp
    rw [exec_call_of_full nnn hsp] at h
    cases h
    exact ⟨hsp, rfl, rfl⟩

/-! ### What an instruction reads -/

/-- `s` with the stack's entries, `IR`, `programLength`, the lifecycle, `running` and the fault record of `other`:
the state an instruction cannot read (10_state.md R35). -/
def State.withHiddenOf (s other : State) : State :=
  { s with
    stack := other.stack, ir := other.ir, programLength := other.programLength
    lifecycle := other.lifecycle, running := other.running, fault := other.fault }

theorem State.eq_withHiddenOf {s s' : State} (hv : s'.v = s.v) (hi : s'.i = s.i) (hpc : s'.pc = s.pc)
    (hsp : s'.sp = s.sp) (hmem : s'.mem = s.mem) (hfb : s'.fb = s.fb) (hd : s'.draws = s.draws) :
    s' = s.withHiddenOf s' := by
  rw [State.withHiddenOf, ← hv, ← hi, ← hpc, ← hsp, ← hmem, ← hfb, ← hd]

theorem State.skipIf_withHiddenOf (s other : State) (c : Bool) :
    (s.withHiddenOf other).skipIf c = (s.skipIf c).withHiddenOf other := by
  cases c <;> rfl

/-- Settles O44: whatever the hidden state, the same arm runs, on the same operands. -/
theorem hiddenStateIsNeverRead : Obligations.HiddenStateIsNeverRead := by
  intro i s s' t hv hi hpc hsp hmem hfb hd h
  rw [State.eq_withHiddenOf hv hi hpc hsp hmem hfb hd]
  generalize s' = other
  cases i
  case call nnn =>
    obtain ⟨hlt, rfl⟩ | ⟨hfull, rfl⟩ := execCall_cases h
    · exact ⟨_, exec_call_of_lt (s := s.withHiddenOf other) nnn hlt, rfl, rfl, rfl, rfl, rfl, rfl, rfl⟩
    · exact ⟨_, exec_call_of_full (s := s.withHiddenOf other) nnn hfull, rfl, rfl, rfl, rfl, rfl, rfl, rfl⟩
  case drw x y n =>
    obtain ⟨hb, rfl⟩ | ⟨hb, rfl⟩ := execDrw_cases h
    · exact ⟨_, exec_drw_of_inBounds (s := s.withHiddenOf other) x y hb, rfl, rfl, rfl, rfl, rfl, rfl, rfl⟩
    · exact ⟨_, exec_drw_of_pastMemory (s := s.withHiddenOf other) x y hb, rfl, rfl, rfl, rfl, rfl, rfl, rfl⟩
  all_goals cases h
  case seImm | sneImm | seReg =>
    exact ⟨_, congrArg Host.Outcome.next (s.skipIf_withHiddenOf other _), rfl, rfl, rfl, rfl, rfl, rfl, rfl⟩
  all_goals exact ⟨_, rfl, rfl, rfl, rfl, rfl, rfl, rfl, rfl⟩

/-- `s` with another count of the free values taken. -/
def State.withDraws (s : State) (d : Nat) : State := { s with draws := d }

theorem State.skipIf_withDraws (s : State) (d : Nat) (c : Bool) :
    (s.withDraws d).skipIf c = (s.skipIf c).withDraws d := by
  cases c <;> rfl

/-- What two states share that differ in the count of free values alone, or after a fault in `running` too. -/
def SameButDraws (t t' : State) : Prop :=
  t'.v = t.v ∧ t'.i = t.i ∧ t'.pc = t.pc ∧ t'.stack = t.stack ∧ t'.sp = t.sp ∧ t'.mem = t.mem ∧ t'.fb = t.fb ∧
    t'.lifecycle = t.lifecycle ∧ t'.ir = t.ir ∧ t'.programLength = t.programLength ∧ t'.fault = t.fault ∧
    (t.lifecycle ≠ .faulted → t'.running = t.running)

theorem SameButDraws.withDraws (t : State) (d : Nat) : SameButDraws t (t.withDraws d) :=
  ⟨rfl, rfl, rfl, rfl, rfl, rfl, rfl, rfl, rfl, rfl, rfl, fun _ => rfl⟩

theorem SameButDraws.raise (s : State) (d : Nat) (record : FaultRecord) :
    SameButDraws (s.raise record) ((s.withDraws d).raise record) :=
  ⟨rfl, rfl, rfl, rfl, rfl, rfl, rfl, rfl, rfl, rfl, rfl, fun h => absurd rfl h⟩

/-- Settles O45: an arm other than RND's runs on the same operands whatever the count; a fault draws `running`. -/
theorem onlyRandomReadsTheDraws : Obligations.OnlyRandomReadsTheDraws := by
  intro i s t d hi h
  change ∃ t', exec i (s.withDraws d) = .next t' ∧ SameButDraws t t'
  cases i
  case rnd x nn => exact absurd rfl hi
  case call nnn =>
    obtain ⟨hlt, rfl⟩ | ⟨hfull, rfl⟩ := execCall_cases h
    · exact ⟨_, exec_call_of_lt (s := s.withDraws d) nnn hlt, .withDraws _ d⟩
    · exact ⟨_, exec_call_of_full (s := s.withDraws d) nnn hfull, .raise s d _⟩
  case drw x y n =>
    obtain ⟨hb, rfl⟩ | ⟨hb, rfl⟩ := execDrw_cases h
    · exact ⟨_, exec_drw_of_inBounds (s := s.withDraws d) x y hb, .withDraws _ d⟩
    · exact ⟨_, exec_drw_of_pastMemory (s := s.withDraws d) x y hb, .raise s d _⟩
  all_goals cases h
  case seImm | sneImm | seReg => exact ⟨_, congrArg Host.Outcome.next (s.skipIf_withDraws d _), .withDraws _ d⟩
  all_goals exact ⟨_, rfl, .withDraws _ d⟩

end Sys2Proof.Machine
end

section
/-!
PROOFS. What the host's commands can do, said once: a load, a `run`, a `step()` and an invocation of the run loop
(70_reset_and_hazards.md R122 to R128).
-/

namespace Sys2Proof.Machine

/-- What `step()` that is carried out did: a step, or the report of the recorded fault. -/
theorem hostStep_cases {stepper : Stepper} {s : State} {r : HostResult} (h : hostStep stepper s = .done r) :
    (∃ t, stepper s = .next t ∧
        r = { state := t, events := faultSignal t, error := none, loopAgain := false }) ∨
      ∃ record, stepper s = .fault (.stuck record) ∧
        r = { state := s, events := [.faultOut record], error := none, loopAgain := false } := by
  unfold hostStep at h
  split at h
  next t ht =>
    cases h
    exact .inl ⟨t, ht, rfl⟩
  next record ht =>
    cases h
    exact .inr ⟨record, ht, rfl⟩
  next => cases h

/-- What an invocation of the run loop did (70_reset_and_hazards.md R125). -/
theorem runLoop_cases {stepper : Stepper} {s : State} {r : HostResult} (h : runLoop stepper s = .done r) :
    (s.lifecycle = .faulted ∧ r = .quiet s) ∨
      (s.lifecycle ≠ .running ∧ r = endedByReset s) ∨
      (s.lifecycle = .running ∧ 4096 ≤ s.pc.toNat ∧
        r = { state := s.halt, events := [.completeOut], error := none, loopAgain := false }) ∨
      (s.lifecycle = .running ∧ ∃ q, hostStep stepper s = .done q ∧ r = { q with loopAgain := true }) := by
  unfold runLoop at h
  split at h
  next hl =>
    cases h
    exact .inl ⟨hl, rfl⟩
  next hl =>
    cases h
    exact .inr (.inl ⟨by simp [hl], rfl⟩)
  next hl =>
    cases h
    exact .inr (.inl ⟨by simp [hl], rfl⟩)
  next hl =>
    split_ifs at h with hhalt
    · cases h
      exact .inr (.inr (.inl ⟨hl, s.atHalt_iff.1 hhalt, rfl⟩))
    · split at h
      next q hq =>
        cases h
        exact .inr (.inr (.inr ⟨hl, q, hq, rfl⟩))
      next => cases h

theorem loadProgram_of_le {p : ProgramImage} (h : p.origin + p.bytes.length ≤ 4096) (s : State) :
    loadProgram p s = .quiet { s with
      mem := s.mem.writeBytes p.origin p.bytes, programLength := p.bytes.length } :=
  if_pos (decide_eq_true h)

theorem loadProgram_of_gt {p : ProgramImage} (h : 4096 < p.origin + p.bytes.length) (s : State) :
    loadProgram p s = { state := s, events := [], error := some .loadOutOfRange, loopAgain := false } :=
  if_neg (by simpa [ProgramImage.wellFormed] using h)

/-- What a `run` that fits in memory leaves: the reset state, loaded and started (R124). -/
def State.started (s : State) (bytes : List Byte) : State :=
  State.startRunning
    { s.hostReset with mem := s.hostReset.mem.writeBytes 0x200 bytes, programLength := bytes.length }

theorem hostRun_of_le {bytes : List Byte} {s : State} (hb : bytes.length ≤ 3584) (hs : s.lifecycle ≠ .running) :
    hostRun bytes s = .done { state := s.started bytes, events := [], error := none, loopAgain := true } := by
  have hfits : 0x200 + bytes.length ≤ 4096 := Nat.add_le_add_left hb 0x200
  rw [hostRun, if_neg hs, loadProgram_of_le (p := ⟨bytes, Config.origin⟩) hfits]
  rfl

theorem hostRun_of_gt {bytes : List Byte} {s : State} (hb : 3584 < bytes.length) (hs : s.lifecycle ≠ .running) :
    hostRun bytes s = .done
      { state := s.hostReset, events := [], error := some .loadOutOfRange, loopAgain := false } := by
  have hlong : 4096 < 0x200 + bytes.length := Nat.add_lt_add_left hb 0x200
  exact hostRun_overlong (decide_eq_false hlong.not_ge) hs

/-- What a `run` that is carried out did (R124, R127). -/
theorem hostRun_cases {bytes : List Byte} {s : State} {r : HostResult} (h : hostRun bytes s = .done r) :
    (bytes.length ≤ 3584 ∧
        r = { state := s.started bytes, events := [], error := none, loopAgain := true }) ∨
      r = { state := s.hostReset, events := [], error := some .loadOutOfRange, loopAgain := false } := by
  have hs : s.lifecycle ≠ .running := by
    intro hrun
    rw [hostRun, if_pos hrun] at h
    cases h
  obtain hb | hb := le_or_gt bytes.length 3584
  · rw [hostRun_of_le hb hs] at h
    cases h
    exact .inl ⟨hb, rfl⟩
  · rw [hostRun_of_gt hb hs] at h
    cases h
    exact .inr rfl

end Sys2Proof.Machine
end

section
/-!
PROOFS. The invariant (10_state.md R18 to R32). Each conjunct is kept by every effect of an instruction that runs
at a `PC` of at most 0xFFE, so by every cycle and by every host command, for either value of `SHR_SOURCE`.
-/

namespace Sys2Proof.Machine

/-- Settles O47: memory is empty, and what is left is finite. -/
theorem resetMeetsTheInvariant : Obligations.ResetMeetsTheInvariant := by
  unfold Obligations.ResetMeetsTheInvariant
  decide

/-! ### The conjuncts that depend on what an effect does -/

theorem Effect.keeps_addressInRange {i : Instr} {s t : State} (h : Effect i s t) (hi : s.AddressInRange) :
    t.AddressInRange := by
  cases h
  case loadI nnn _ => exact zextAddr_toNat_le nnn
  case skip => exact (congrArg BitVec.toNat (s.skipIf_i _)).trans_le hi
  all_goals exact hi

/-- From a `PC` that could be fetched the advance and the skip stay far below the largest target. -/
theorem Effect.pcInRange {i : Instr} {s t : State} (h : Effect i s t) (hpc : s.pc.toNat < 4095) :
    t.PcInRange := by
  unfold State.PcInRange
  obtain heq | heq | heq | ⟨-, hle⟩ := h.pc_cases
  · rw [heq]
    omega
  · rw [heq, BitVec.toNat_add, show (2 : Word).toNat = 2 from rfl]
    omega
  · rw [heq, BitVec.toNat_add, show (4 : Word).toNat = 4 from rfl]
    omega
  · exact hle

/-- `stack` and `sp` are those of `s`. -/
theorem State.stackInv_congr {s t : State} (hstack : t.stack = s.stack) (hsp : t.sp = s.sp)
    (h : s.StackClearAbove ∧ s.StackHoldsCalls) : t.StackClearAbove ∧ t.StackHoldsCalls := by
  simpa only [State.StackClearAbove, State.StackHoldsCalls, hstack, hsp] using h

theorem State.pushReturn_stack_new (s : State) (h : s.sp.val < Config.stackDepth) (ret : Word) :
    (s.pushReturn h ret).stack[s.sp.val] = ret := Vector.getElem_set_self h

theorem State.pushReturn_stack_other (s : State) (h : s.sp.val < Config.stackDepth) (ret : Word) {k : Fin 16}
    (hk : k.val ≠ s.sp.val) : (s.pushReturn h ret).stack[k.val] = s.stack[k.val] :=
  Vector.getElem_set_ne h k.isLt hk.symm

/-- A push writes the entry at `SP` alone, with the address of the CALL. -/
theorem State.pushReturn_stackInv {s : State} (below : s.sp.val < Config.stackDepth) (hpc : s.pc.toNat ≤ 0xFFE)
    (h : s.StackClearAbove ∧ s.StackHoldsCalls) :
    (s.pushReturn below s.pc).StackClearAbove ∧ (s.pushReturn below s.pc).StackHoldsCalls := by
  obtain ⟨hclear, hcalls⟩ := h
  constructor
  · intro k (hk : s.sp.val + 1 ≤ k.val)
    rw [s.pushReturn_stack_other below s.pc (by omega)]
    exact hclear k (by omega)
  · intro k (hk : k.val < s.sp.val + 1)
    obtain hlt | heq : k.val < s.sp.val ∨ s.sp.val = k.val := by omega
    · rw [s.pushReturn_stack_other below s.pc hlt.ne]
      exact hcalls k hlt
    · have hnew : (s.pushReturn below s.pc).stack[k.val] = s.pc := by
        simpa only [heq] using s.pushReturn_stack_new below s.pc
      rwa [hnew]

theorem Effect.keeps_stackInv {i : Instr} {s t : State} (h : Effect i s t) (hpc : s.pc.toNat < 4095)
    (hs : s.StackClearAbove ∧ s.StackHoldsCalls) : t.StackClearAbove ∧ t.StackHoldsCalls := by
  cases h
  case push below _ => exact State.pushReturn_stackInv below (by omega) hs
  case skip => exact State.stackInv_congr (s.skipIf_stack _) (s.skipIf_sp _) hs
  all_goals exact hs

/-! ### The conjuncts about the lifecycle -/

/-- Raising a fault meets them whatever the state was: the draw of `running` is exempt. -/
theorem State.raise_lifecycleInv (s : State) {record : FaultRecord} (hr : record ≠ .none) :
    (s.raise record).RunningAgrees ∧ (s.raise record).FaultRecordAgrees :=
  ⟨fun h => absurd rfl h, fun h => absurd h hr, fun h => absurd rfl h⟩

theorem State.lifecycleInv_congr {s t : State} (h : SameBookkeeping s t)
    (hs : s.RunningAgrees ∧ s.FaultRecordAgrees) : t.RunningAgrees ∧ t.FaultRecordAgrees := by
  obtain ⟨-, hl, hr, -, hf⟩ := h
  simpa only [State.RunningAgrees, State.FaultRecordAgrees, hl, hr, hf] using hs

theorem Effect.keeps_lifecycleInv {i : Instr} {s t : State} (h : Effect i s t)
    (hs : s.RunningAgrees ∧ s.FaultRecordAgrees) : t.RunningAgrees ∧ t.FaultRecordAgrees := by
  obtain hsame | ⟨record, hr, rfl⟩ := h.sameBookkeeping_or_raise
  · exact State.lifecycleInv_congr hsame hs
  · exact s.raise_lifecycleInv hr

/-! ### Instructions and cycles -/

theorem Effect.keeps_inv {i : Instr} {s t : State} (h : Effect i s t) (hpc : s.pc.toNat < 4095) (hs : s.Inv) :
    t.Inv := by
  obtain ⟨hmem, hi, -, hlen, hclear, hcalls, hlife⟩ := hs
  obtain ⟨hclear', hcalls'⟩ := h.keeps_stackInv hpc ⟨hclear, hcalls⟩
  refine ⟨?mem, h.keeps_addressInRange hi, h.pcInRange hpc, ?len, hclear', hcalls', h.keeps_lifecycleInv hlife⟩
  case mem => exact (congrArg Memory.wf h.mem_eq).trans hmem
  case len => exact h.programLength_eq.trans_le hlen

theorem State.raise_inv {s : State} (hs : s.Inv) {record : FaultRecord} (hr : record ≠ .none) :
    (s.raise record).Inv := by
  obtain ⟨hmem, hi, hpc, hlen, hclear, hcalls, -⟩ := hs
  exact ⟨hmem, hi, hpc, hlen, hclear, hcalls, s.raise_lifecycleInv hr⟩

/-- The invariant does not speak of `IR`. -/
theorem State.latchIr_inv {s : State} (hs : s.Inv) (w : Word) : (s.latchIr w).Inv := hs

theorem stepWith_keeps_inv {source : Config.ShrSource} {s t : State} (hs : s.Inv)
    (h : stepWith source s = .next t) : t.Inv := by
  obtain ⟨-, ⟨hfetch, hexec⟩ | ⟨-, rfl⟩⟩ := stepWith_next_cases h
  · have hpc : s.pc.toNat < 4095 := s.canFetch_iff.1 hfetch
    exact (execWith_effect hexec).keeps_inv hpc (State.latchIr_inv hs _)
  · exact State.raise_inv hs nofun

/-- Settles O48, as the case of either shift source that this hardware takes. -/
theorem stepKeepsTheInvariant : Obligations.StepKeepsTheInvariant :=
  fun s _ hs h => stepWith_keeps_inv hs ((stepWith_shrSource s).trans h)

/-! ### Host commands -/

theorem State.hostReset_inv (s : State) : s.hostReset.Inv := resetMeetsTheInvariant

theorem loadProgram_keeps_inv (p : ProgramImage) {s : State} (hs : s.Inv) : (loadProgram p s).state.Inv := by
  obtain ⟨hfits, heq⟩ | ⟨-, heq⟩ := loadProgram_cases p s
  · obtain ⟨hmem, hi, hpc, -, hrest⟩ := hs
    rw [heq]
    exact ⟨Memory.writeBytes_wf hmem p.origin p.bytes, hi, hpc, (Nat.le_add_left _ _).trans hfits, hrest⟩
  · rw [heq]
    exact hs

/-- From a state that is not FAULTED a run starts with the record NONE. -/
theorem State.startRunning_inv {s : State} (hs : s.Inv) (hl : s.lifecycle ≠ .faulted) : s.startRunning.Inv := by
  obtain ⟨hmem, hi, hpc, hlen, hclear, hcalls, -, hfault⟩ := hs
  exact ⟨hmem, hi, hpc, hlen, hclear, hcalls, fun _ => ⟨fun _ => rfl, fun _ => rfl⟩, fun _ => nofun,
    fun _ => hfault.2 hl⟩

theorem State.halt_inv {s : State} (hs : s.Inv) (hl : s.lifecycle ≠ .faulted) : s.halt.Inv := by
  obtain ⟨hmem, hi, hpc, hlen, hclear, hcalls, -, hfault⟩ := hs
  exact ⟨hmem, hi, hpc, hlen, hclear, hcalls, fun _ => ⟨nofun, nofun⟩, fun _ => nofun, fun _ => hfault.2 hl⟩

theorem State.started_inv (s : State) {bytes : List Byte} (hb : bytes.length ≤ 3584) : (s.started bytes).Inv := by
  refine State.startRunning_inv ?_ nofun
  obtain ⟨-, hi, hpc, -, hrest⟩ := s.hostReset_inv
  exact ⟨Memory.writeBytes_wf Memory.wf_nil 0x200 bytes, hi, hpc, hb.trans (by decide), hrest⟩

theorem endedByReset_keeps_inv {s : State} (hs : s.Inv) : (endedByReset s).state.Inv := hs

section
variable {stepper : Stepper} (hstepper : ∀ s t : State, s.Inv → stepper s = .next t → t.Inv)
include hstepper

theorem hostStep_keeps_inv {s : State} {r : HostResult} (hs : s.Inv) (h : hostStep stepper s = .done r) :
    r.state.Inv := by
  obtain ⟨t, ht, rfl⟩ | ⟨record, -, rfl⟩ := hostStep_cases h
  · exact hstepper s t hs ht
  · exact hs

theorem runLoop_keeps_inv {s : State} {r : HostResult} (hs : s.Inv) (h : runLoop stepper s = .done r) :
    r.state.Inv := by
  obtain ⟨-, rfl⟩ | ⟨-, rfl⟩ | ⟨hl, -, rfl⟩ | ⟨-, q, hq, rfl⟩ := runLoop_cases h
  · exact hs
  · exact endedByReset_keeps_inv hs
  · exact State.halt_inv hs (by simp [hl])
  · exact (hostStep_keeps_inv hstepper hs hq : q.state.Inv)

/-- A core whose steps keep the invariant keeps it under every host command. -/
theorem hostActionBy_keeps_inv {c : HostCommand} {s : State} {r : HostResult} (hs : s.Inv)
    (h : hostActionBy stepper c s = .done r) : r.state.Inv := by
  cases c with
  | reset =>
    cases h
    exact s.hostReset_inv
  | loadProgram bytes origin =>
    cases h
    exact loadProgram_keeps_inv _ hs
  | run bytes =>
    obtain ⟨hb, rfl⟩ | rfl := hostRun_cases h
    · exact s.started_inv hb
    · exact s.hostReset_inv
  | step => exact hostStep_keeps_inv hstepper hs h
  | invokeLoop => exact runLoop_keeps_inv hstepper hs h
  | keyIn keys =>
    cases h
    exact hs

end

/-- Settles O49: the step keeps the invariant, so every command does. -/
theorem hostCommandsKeepTheInvariant : Obligations.HostCommandsKeepTheInvariant :=
  fun _ _ _ hs h => hostActionBy_keeps_inv stepKeepsTheInvariant hs h

/-- Settles O60: nothing above asked which register the shift reads. -/
theorem eitherShiftSourceKeepsTheInvariant : Obligations.EitherShiftSourceKeepsTheInvariant :=
  fun _ => ⟨fun _ _ hs h => stepWith_keeps_inv hs h,
    fun _ _ _ hs h => hostActionBy_keeps_inv (fun _ _ => stepWith_keeps_inv) hs h, rfl⟩

end Sys2Proof.Machine
end

section
/-!
PROOFS. The step (30_encoding.md R55): in FAULTED nothing runs, past 0xFFE the fetch faults, and else the word at
`PC` runs. Its faults are the three of 60_exceptions.md R97.
-/

namespace Sys2Proof.Machine

/-! ### The three ways of a cycle -/

theorem cycle_of_canFetch {execute : Instr → Stepper} {s : State} (hl : s.lifecycle ≠ .faulted)
    (hpc : s.pc.toNat < 0xFFF) :
    cycle execute s = execute (decodeWord s.fetchWord) (s.latchIr s.fetchWord) := by
  rw [cycle, if_neg hl, if_pos (s.canFetch_iff.2 hpc)]

theorem cycle_of_fetchPast {execute : Instr → Stepper} {s : State} (hl : s.lifecycle ≠ .faulted)
    (hpc : 0xFFF ≤ s.pc.toNat) : cycle execute s = .next (s.raise (.fetchOutOfBounds s.pc)) := by
  rw [cycle, if_neg hl, if_neg (Bool.eq_false_iff.1 (s.canFetch_eq_false_iff.2 hpc))]

theorem cycle_of_faulted {execute : Instr → Stepper} {s : State} (hl : s.lifecycle = .faulted) :
    cycle execute s = .fault (.stuck s.fault) := if_pos hl

/-! ### Fetch and dispatch -/

/-- Settles O10: two bytes decode to the instruction of the word they make. -/
theorem stepRunsTheFetchedInstruction : Obligations.StepRunsTheFetchedInstruction := by
  intro s i hl hpc hdecode
  have hi : i = decodeWord s.fetchWord := by
    injection hdecode with hpair
    injection hpair with hi
    exact hi.symm
  rw [hi]
  exact cycle_of_canFetch hl hpc

theorem word_ofNat_toNat (w : Word) : BitVec.ofNat 16 (w.toNat % 2 ^ 16) = w := by
  rw [Nat.mod_eq_of_lt w.isLt, BitVec.ofNat_toNat, BitVec.setWidth_eq]

theorem State.withFetchWord_eq (s : State) (w : Word) :
    s.withFetchWord 16 w.toNat = { s with mem := s.mem.writeBytes s.pc.toNat [highByte w, lowByte w] } := by
  rw [State.withFetchWord, word_ofNat_toNat]

theorem decodeTableWord_toNat (w : Word) : decodeTableWord 16 w.toNat = some (decodeWord w) := by
  have hbytes : decode [highByte w, lowByte w] = .ok (decodeWord w, []) := by
    rw [decode, wordOfBytes_highByte_lowByte]
  rw [decodeTableWord, word_ofNat_toNat, hbytes]

/-- Two bytes written are read back as their word. -/
theorem Memory.readWord_writeBytes {m : Memory} (hm : m.wf = true) {a : Nat} (ha : a < 0xFFF) (w : Word) :
    (m.writeBytes a [highByte w, lowByte w]).readWord a = w := by
  have hlen : a + [highByte w, lowByte w].length ≤ 4096 := by
    rw [List.length_cons, List.length_singleton]
    omega
  rw [Memory.readWord, Memory.readByte_writeBytes hm a _ hlen, Memory.readByte_writeBytes hm a _ hlen]
  simpa using wordOfBytes_highByte_lowByte w

theorem State.fetchWord_withFetchWord {s : State} (hwf : s.mem.wf = true) (hpc : s.pc.toNat < 0xFFF) (w : Word) :
    (s.withFetchWord 16 w.toNat).fetchWord = w := by
  rw [State.withFetchWord_eq]
  exact Memory.readWord_writeBytes hwf hpc w

/-- Settles O11: the word placed is what is fetched, and its two bytes are all that is written. -/
theorem placedWordIsRunNext : Obligations.PlacedWordIsRunNext := by
  intro s w hwf hl hpc
  refine ⟨decodeTableWord_toNat w, ?run, .of_v rfl _, fun a ha ha' => ?other⟩
  case run =>
    have hstep := cycle_of_canFetch (execute := exec) (s := s.withFetchWord 16 w.toNat) hl hpc
    rw [State.fetchWord_withFetchWord hwf hpc w] at hstep
    exact hstep
  case other =>
    have hlen : s.pc.toNat + [highByte w, lowByte w].length ≤ 4096 := by
      rw [List.length_cons, List.length_singleton]
      omega
    rw [State.withFetchWord_eq, Memory.readByte_writeBytes hwf _ _ hlen, dif_neg]
    simp only [List.length_cons, List.length_nil]
    omega

/-- Settles O14: every instruction answers a next state, and the no-op space runs the default advance. -/
theorem noEncodingIsIllegal : Obligations.NoEncodingIsIllegal := by
  intro s hl hpc w
  obtain ⟨t, ht⟩ := exec_answers_next (decodeWord w) (s.latchIr w)
  refine ⟨t, (cycle_of_canFetch hl hpc).trans ht, (exec_effect ht).ir_eq, fun hspace => ?_⟩
  have hnop : (decodeWord w).IsNoOp := (noOpSpaceIsExactly w).2 hspace
  rw [exec_of_isNoOp hnop] at ht
  cases ht
  exact ⟨rfl, (s.latchIr w).advance_pcFrame⟩

/-! ### Faults -/

/-- Settles O12: the fetch bound is tested before `IR` is written. -/
theorem fetchPastMemoryFaults : Obligations.FetchPastMemoryFaults :=
  fun s hl hpc => ⟨_, cycle_of_fetchPast hl hpc, s.raise_faultTaken _⟩

/-- Settles O13: the test of FAULTED is the first of the cycle. -/
theorem faultedCoreIsStuck : Obligations.FaultedCoreIsStuck := by
  intro s hl
  have hstuck : step s = .fault (.stuck s.fault) := cycle_of_faulted hl
  refine ⟨hstuck, ?_⟩
  change hostStep step s = _
  rw [hostStep, hstuck]

/-- An effect leads into FAULTED by a CALL at capacity or a DRW past memory alone. -/
theorem Effect.cause_of_faulted {i : Instr} {s t : State} (h : Effect i s t) (hs : s.lifecycle ≠ .faulted)
    (ht : t.lifecycle = .faulted) :
    (s.sp.val = 16 ∧ ∃ nnn, i = .call nnn) ∨ ∃ x y n, i = .drw x y n ∧ spriteInBounds s.i n = false := by
  cases h
  case overflow nnn hi hsp => exact .inl ⟨hsp, nnn, hi⟩
  case pastMemory x y n hi hb => exact .inr ⟨x, y, n, hi, hb⟩
  case skip => exact absurd ((s.skipIf_lifecycle _).symm.trans ht) hs
  all_goals exact absurd ht hs

theorem FaultTaken.lifecycle_eq {record : FaultRecord} {s t : State} (h : FaultTaken record s t) :
    t.lifecycle = .faulted := by
  obtain ⟨-, -, -, -, -, -, -, -, -, hl⟩ := h
  exact hl

/-- Settles O15: past 0xFFE the step is the fetch fault; else it is the effect of the word fetched, which faults for
its own two causes alone. -/
theorem faultsAreExactlyTheThreeCauses : Obligations.FaultsAreExactlyTheThreeCauses := by
  intro s t h w fetchFault callFault drawFault
  obtain ⟨hl, ⟨hfetch, hexec⟩ | ⟨hfetch, rfl⟩⟩ := step_next_cases h
  · have hpc : s.pc.toNat < 0xFFF := s.canFetch_iff.1 hfetch
    change exec (decodeWord w) (s.latchIr w) = .next t at hexec
    have hcall : callFault → FaultTaken (.stackOverflow s.pc) (s.latchIr w) t := by
      rintro ⟨-, hsp, nnn, hi⟩
      rw [hi, exec_call_of_full nnn (s := s.latchIr w) hsp] at hexec
      cases hexec
      exact (s.latchIr w).raise_faultTaken _
    have hdraw : drawFault → FaultTaken (.readOutOfBounds s.pc 0x1000) (s.latchIr w) t := by
      rintro ⟨-, x, y, n, hi, hn, hpast⟩
      have hb : spriteInBounds s.i n = false := (spriteInBounds_eq_false_iff _ _).2 ⟨hn, hpast⟩
      rw [hi, exec_drw_of_pastMemory x y (s := s.latchIr w) hb] at hexec
      cases hexec
      exact (s.latchIr w).raise_faultTaken _
    refine ⟨⟨fun ht => .inr ?causes, ?faulted⟩, fun hge => absurd hpc hge.not_gt, hcall, hdraw⟩
    case causes =>
      obtain ⟨hsp, hi⟩ | ⟨x, y, n, hi, hb⟩ := (exec_effect hexec).cause_of_faulted hl ht
      · exact .inl ⟨hpc, hsp, hi⟩
      · exact .inr ⟨hpc, x, y, n, hi, (spriteInBounds_eq_false_iff _ _).1 hb⟩
    case faulted =>
      rintro (hge | hc | hd)
      · exact absurd hpc hge.not_gt
      · exact (hcall hc).lifecycle_eq
      · exact (hdraw hd).lifecycle_eq
  · have hpc : 0xFFF ≤ s.pc.toNat := s.canFetch_eq_false_iff.1 hfetch
    exact ⟨⟨fun _ => .inl hpc, fun _ => rfl⟩, fun _ => s.raise_faultTaken _,
      fun hc => absurd hc.1 hpc.not_gt, fun hd => absurd hd.1 hpc.not_gt⟩

/-- Settles O16, by evaluation. -/
theorem faultCodesAreAsListed : Obligations.FaultCodesAreAsListed :=
  fun _ _ => ⟨rfl, rfl, rfl, rfl, rfl, rfl, rfl⟩

end Sys2Proof.Machine
end

section
/-!
PROOFS. Control transfer (40_control_flow.md R67 to R72), the subtraction and the shift (42_alu.md R81, R82), and
the random byte (43_address_random.md R86).
-/

namespace Sys2Proof.Machine

/-! ### Jumps and calls -/

theorem exec_jp (nnn : Addr) (s : State) : exec (.jp nnn) s = .next (s.setPc (zextAddr nnn)) := rfl

theorem exec_jpV0 (nnn : Addr) (s : State) :
    exec (.jpV0 nnn) s = .next (s.setPc (offsetTarget nnn (s.readV 0))) := rfl

theorem exec_seReg (x y : RegIdx) (n : Nibble) (s : State) :
    exec (.seReg x y n) s = .next (s.skipIf (s.readV x == s.readV y)) := rfl

theorem State.setPc_pcFrame (s : State) (target : Word) : PcFrame s (s.setPc target) := .of_pc s target

/-- Settles O17: JP is a write of `PC`; at 0xFFF the next step is the fetch fault. -/
theorem jpSetsPc : Obligations.JpSetsPc := by
  intro nnn s
  refine ⟨_, exec_jp nnn s, zextAddr_toNat nnn, s.setPc_pcFrame _, ?_⟩
  rintro rfl hl
  have hfault : step (s.setPc (zextAddr 0xFFF)) = .next ((s.setPc (zextAddr 0xFFF)).raise (.fetchOutOfBounds 0xFFF)) :=
    cycle_of_fetchPast hl (zextAddr_toNat 0xFFF).ge
  exact ⟨_, hfault, rfl, rfl⟩

/-- Settles O18: CALL is the push of its own `PC` and a jump. -/
theorem callPushesItsOwnAddress : Obligations.CallPushesItsOwnAddress := by
  intro nnn s h
  exact ⟨_, exec_call_of_lt nnn h, s.pushReturn_stack_new h s.pc, rfl, zextAddr_toNat nnn,
    fun k hk => s.pushReturn_stack_other h s.pc hk, .of_v rfl _, rfl, .of_mem rfl, .of_fb rfl,
    ⟨rfl, rfl, rfl, rfl, rfl⟩, rfl⟩

/-- Settles O20: the CALL at capacity raises, and raising writes nothing else. -/
theorem callAtCapacityOverflows : Obligations.CallAtCapacityOverflows :=
  fun nnn s hsp => ⟨_, exec_call_of_full nnn hsp, s.raise_faultTaken _⟩

/-- Settles O23: SE is the skip on equal registers; `n` does not reach it. -/
theorem skipIfRegistersEqual : Obligations.SkipIfRegistersEqual := by
  intro x y n s
  refine ⟨_, exec_seReg x y n s, fun heq => ?equal, fun hne => ?differ, s.skipIf_pcFrame _⟩
  case equal => exact State.skipIf_pc_of_true (beq_iff_eq.2 heq)
  case differ => exact State.skipIf_pc_of_false (beq_eq_false_iff_ne.2 hne)

/-- Settles O24: the exact sum fits in 16 bits. -/
theorem offsetJumpIsNotMasked : Obligations.OffsetJumpIsNotMasked :=
  fun nnn s => ⟨_, exec_jpV0 nnn s, offsetTarget_toNat nnn _, s.setPc_pcFrame _⟩

/-! ### Subtraction and shift -/

theorem exec_sub (x y : RegIdx) (s : State) :
    exec (.sub x y) s =
      .next (s.writeVThenFlag x (s.readV x - s.readV y) (noBorrowFlag (s.readV x) (s.readV y))).advance := rfl

theorem noBorrowFlag_of_gt {a b : Byte} (h : b.toNat > a.toNat) : noBorrowFlag a b = 0 := by
  rw [noBorrowFlag, decide_eq_true h, Bool.not_true, flagByte_false]

theorem noBorrowFlag_of_le {a b : Byte} (h : b.toNat ≤ a.toNat) : noBorrowFlag a b = 1 := by
  rw [noBorrowFlag, decide_eq_false h.not_gt, Bool.not_false, flagByte_true]

/-- The difference modulo 256, as integers (R81). -/
theorem toNat_sub_int (a b : Byte) : ((a - b).toNat : Int) = (a.toNat - b.toNat : Int) % 256 := by
  have := a.isLt
  have := b.isLt
  rw [BitVec.toNat_sub]
  omega

/-- Settles O31: SUB writes the difference to `Vx`, then NOT borrow to `VF`, and advances. -/
theorem subtractWritesNoBorrow : Obligations.SubtractWritesNoBorrow := by
  intro x y s
  refine ⟨_, exec_sub x y s, fun hx => ?difference, fun hgt => ?borrow, fun hle => ?noBorrow,
    s.writeVThenFlag_advance_frames x _ _⟩
  case difference => rw [State.readV_advance, State.readV_writeVThenFlag_same s _ _ hx, toNat_sub_int]
  case borrow => rw [State.readV_advance, State.readV_writeVThenFlag_vf, noBorrowFlag_of_gt hgt]
  case noBorrow => rw [State.readV_advance, State.readV_writeVThenFlag_vf, noBorrowFlag_of_le hle]

theorem execShrFrom_eq (source : Config.ShrSource) (x y : RegIdx) (s : State) :
    execShrFrom source x y s =
      .next (s.writeVThenFlag x (s.shiftOperand source x y >>> 1)
        (shiftedOutFlag (s.shiftOperand source x y))).advance := rfl

theorem toNat_shiftRight_one (a : Byte) : (a >>> 1).toNat = a.toNat / 2 := by
  rw [BitVec.toNat_ushiftRight, Nat.shiftRight_one]

theorem shiftedOutFlag_toNat (a : Byte) : (shiftedOutFlag a).toNat = a.toNat % 2 := by
  rw [shiftedOutFlag, BitVec.toNat_and]
  exact Nat.and_one_is_mod a.toNat

theorem State.shiftOperand_eq (s : State) (source : Config.ShrSource) (x y : RegIdx) :
    s.shiftOperand source x y = if source = .x then s.readV x else s.readV y := by
  cases source <;> rfl

/-- Settles O33: the shift writes half of its operand to `Vx`, then bit 0 of it to `VF`, and advances. -/
theorem shiftRightForEitherSource : Obligations.ShiftRightForEitherSource := by
  intro source x y s a
  have ha : s.shiftOperand source x y = a := s.shiftOperand_eq source x y
  refine ⟨?hardware, _, execShrFrom_eq source x y s, fun hx => ?half, ?bit,
    s.writeVThenFlag_advance_frames x _ _⟩
  case hardware =>
    rintro rfl
    rfl
  case half => rw [State.readV_advance, State.readV_writeVThenFlag_same s _ _ hx, toNat_shiftRight_one, ha]
  case bit => rw [State.readV_advance, State.readV_writeVThenFlag_vf, shiftedOutFlag_toNat, ha]

/-- Settles O32: SHR of this hardware is the shift whose source is `Vx`. -/
theorem shiftRightOfVx : Obligations.ShiftRightOfVx :=
  fun x y s => (shiftRightForEitherSource .x x y s).2

/-! ### The random byte -/

theorem exec_rnd (x : RegIdx) (nn : Byte) (s : State) :
    exec (.rnd x nn) s = .next (s.draw8.2.writeV x (Config.drawByte s.draws &&& nn)).advance := rfl

/-- Settles O35: RND counts a draw, then writes the masked byte to `Vx` and advances. -/
theorem randomByteIsMasked : Obligations.RandomByteIsMasked := by
  intro x nn s
  have hvx : (s.draw8.2.writeV x (Config.drawByte s.draws &&& nn)).advance.readV x =
      Config.drawByte s.draws &&& nn := by
    rw [State.readV_advance, State.readV_writeV_same]
  refine ⟨_, exec_rnd x nn s, hvx, ?mask, ?zero, s.draw8.2.writeV_advance_sameRegistersBut x _, rfl, rfl,
    .of_eq rfl rfl, .of_mem rfl, .of_fb rfl, ⟨rfl, rfl, rfl, rfl, rfl⟩, rfl⟩
  case mask =>
    rw [hvx, BitVec.and_assoc, BitVec.and_not_self]
    exact BitVec.and_zero
  case zero =>
    rintro rfl
    rw [hvx]
    exact BitVec.and_zero

end Sys2Proof.Machine
end

section
/-!
PROOFS. The sprite draw (44_draw.md R87 to R89), from the law of `drawSprite`: the pixels under the sprite are
inverted and no other. Inverting them twice restores the screen.
-/

namespace Sys2Proof.Machine

theorem flagByte_eq_one_iff (c : Bool) : flagByte c = 1 ↔ c = true := by
  cases c <;> decide

theorem flagByte_eq_zero_iff (c : Bool) : flagByte c = 0 ↔ ¬ c = true := by
  cases c <;> decide

/-- The pixels of the specification are those of the law of `drawSprite`. -/
theorem rowsSet_iff_spriteSets (s : State) (vx vy : Byte) (n : Nibble) (px : Fin 64) (py : Fin 32) :
    RowsSet s.mem s.i.toNat vx vy n.toNat px py ↔ SpriteSets s vx vy n px py := by
  constructor
  · rintro ⟨row, hrow, col, hcol, hbit, rfl, rfl⟩
    exact ⟨row, col, hrow, hcol, rfl, rfl, hbit⟩
  · rintro ⟨row, col, hrow, hcol, hx, hy, hbit⟩
    exact ⟨row, hrow, col, hcol, hbit, Fin.ext hx, Fin.ext hy⟩

/-- The bound of DXYN as the statements write it. -/
theorem spriteInBounds_of_le {base : Word} {n : Nibble} (h : n.toNat = 0 ∨ base.toNat + n.toNat - 1 ≤ 0xFFF) :
    spriteInBounds base n = true :=
  (spriteInBounds_iff base n).2 (h.imp_right Nat.lt_succ_of_le)

section
variable (s : State) (x y : RegIdx) (n : Nibble)

theorem drawSprite_spec_of_nibble :
    let d := drawSprite s.mem s.i.toNat (s.readV x) (s.readV y) n.toNat s.fb
    (∀ px py, (SpriteSets s (s.readV x) (s.readV y) n px py → d.1.pixel px py = !s.pixel px py) ∧
      (¬ SpriteSets s (s.readV x) (s.readV y) n px py → d.1.pixel px py = s.pixel px py)) ∧
    (d.2 = true ↔ ∃ px py, SpriteSets s (s.readV x) (s.readV y) n px py ∧ s.pixel px py = true) := by
  have hn : n.toNat ≤ 15 := Nat.le_of_lt_succ n.isLt
  simpa only [rowsSet_iff_spriteSets, State.pixel] using
    drawSprite_spec s.mem s.i.toNat (s.readV x) (s.readV y) s.fb n.toNat hn

variable {px : Fin 64} {py : Fin 32}

theorem State.drawn_pixel_of_sets (h : SpriteSets s (s.readV x) (s.readV y) n px py) :
    (s.drawn x y n).pixel px py = !s.pixel px py :=
  ((drawSprite_spec_of_nibble s x y n).1 px py).1 h

theorem State.drawn_pixel_of_not_sets (h : ¬ SpriteSets s (s.readV x) (s.readV y) n px py) :
    (s.drawn x y n).pixel px py = s.pixel px py :=
  ((drawSprite_spec_of_nibble s x y n).1 px py).2 h

theorem State.drawn_vf :
    (s.drawn x y n).readV vf =
      flagByte (drawSprite s.mem s.i.toNat (s.readV x) (s.readV y) n.toNat s.fb).2 :=
  State.readV_writeV_same _ vf _

/-- `VF` reports a pixel of the sprite that was set (R88). -/
theorem State.drawn_vf_eq_one_iff :
    (s.drawn x y n).readV vf = 1 ↔
      ∃ px py, SpriteSets s (s.readV x) (s.readV y) n px py ∧ s.pixel px py = true := by
  rw [State.drawn_vf, flagByte_eq_one_iff]
  exact (drawSprite_spec_of_nibble s x y n).2

theorem State.drawn_vf_eq_zero_iff :
    (s.drawn x y n).readV vf = 0 ↔
      ¬ ∃ px py, SpriteSets s (s.readV x) (s.readV y) n px py ∧ s.pixel px py = true := by
  rw [State.drawn_vf, flagByte_eq_zero_iff]
  exact not_congr (drawSprite_spec_of_nibble s x y n).2

theorem State.drawn_sameRegistersBut : SameRegistersBut (· = vf) s (s.drawn x y n) :=
  fun _ hr => State.readV_writeV_of_ne _ _ hr

end

/-- Settles O36: in bounds DRW leaves `State.drawn`, which writes the framebuffer, `VF` and `PC` alone. -/
theorem drawXorsTheSprite : Obligations.DrawXorsTheSprite := by
  intro x y n s hbounds
  exact ⟨s.drawn x y n, exec_drw_of_inBounds x y (spriteInBounds_of_le hbounds),
    fun px py => ⟨s.drawn_pixel_of_sets x y n, s.drawn_pixel_of_not_sets x y n⟩,
    (s.drawn_vf_eq_one_iff x y n).2, (s.drawn_vf_eq_zero_iff x y n).2, s.drawn_sameRegistersBut x y n, rfl, rfl,
    .of_eq rfl rfl, .of_mem rfl, ⟨rfl, rfl, rfl, rfl, rfl⟩, rfl⟩

/-- Settles O37: past memory DRW raises before it writes. -/
theorem drawPastMemoryFaults : Obligations.DrawPastMemoryFaults :=
  fun x y _ s hn hpast =>
    ⟨_, exec_drw_of_pastMemory x y ((spriteInBounds_eq_false_iff _ _).2 ⟨hn, hpast⟩), s.raise_faultTaken _⟩

/-- The first draw moves neither the sprite nor its place, unless the place is read from `VF`. -/
theorem spriteSets_drawn_iff (s : State) {x y : RegIdx} (n : Nibble) (hx : x ≠ vf) (hy : y ≠ vf) (px : Fin 64)
    (py : Fin 32) :
    SpriteSets (s.drawn x y n) ((s.drawn x y n).readV x) ((s.drawn x y n).readV y) n px py ↔
      SpriteSets s (s.readV x) (s.readV y) n px py := by
  rw [s.drawn_sameRegistersBut x y n x hx, s.drawn_sameRegistersBut x y n y hy]
  rfl

/-- Settles O38: both draws invert the same pixels, and the second finds set what the first found clear. -/
theorem drawingTwiceRestoresTheScreen : Obligations.DrawingTwiceRestoresTheScreen := by
  intro x y n s u t hx hy hbounds hu ht
  have hin : spriteInBounds s.i n = true := spriteInBounds_of_le hbounds
  rw [exec_drw_of_inBounds x y hin] at hu
  cases hu
  rw [exec_drw_of_inBounds (s := s.drawn x y n) x y hin] at ht
  cases ht
  have hsame := spriteSets_drawn_iff s n hx hy
  refine ⟨fun px py => ?screen, ?collision⟩
  case screen =>
    by_cases hset : SpriteSets s (s.readV x) (s.readV y) n px py
    · rw [(s.drawn x y n).drawn_pixel_of_sets x y n ((hsame px py).2 hset), s.drawn_pixel_of_sets x y n hset,
        Bool.not_not]
    · rw [(s.drawn x y n).drawn_pixel_of_not_sets x y n (mt (hsame px py).1 hset),
        s.drawn_pixel_of_not_sets x y n hset]
  case collision =>
    rw [State.drawn_vf_eq_one_iff]
    refine exists_congr fun px => exists_congr fun py => ?_
    rw [hsame]
    refine and_congr_right fun hset => ?_
    rw [s.drawn_pixel_of_sets x y n hset, Bool.not_eq_true']

end Sys2Proof.Machine
end

section
/-!
PROOFS. The host interface (60_exceptions.md, 70_reset_and_hazards.md): reset, loads, runs, the accessors, and what a
command leaves alone.
-/

namespace Sys2Proof.Machine

/-! ### Reset -/

theorem State.reset_resetElements : ResetElements State.reset := by
  refine ⟨fun r => ?reg, rfl, rfl, fun k => ?entry, rfl, Memory.readByte_nil, fun px py => ?pixel, rfl, rfl, rfl,
    rfl, rfl⟩
  case reg => simp [State.readV, State.reset]
  case entry => simp [State.reset]
  case pixel => simp [State.pixel, Framebuffer.pixel, State.reset]

/-- The elements do not include the model's own count, all that a host reset keeps (log 1). -/
theorem State.hostReset_resetElements (s : State) : ResetElements s.hostReset := State.reset_resetElements

/-- Settles O7: the command is `hostReset`, and quiet. -/
theorem resetLeavesEveryElement : Obligations.ResetLeavesEveryElement :=
  fun s => ⟨s.hostReset, rfl, s.hostReset_resetElements⟩

/-- Settles O8: the core is constructed in `State.reset`. -/
theorem powerOnIsTheResetState : Obligations.PowerOnIsTheResetState := State.reset_resetElements

/-- A step keeps the lifecycle or leads into FAULTED. -/
theorem step_lifecycle {s t : State} (h : step s = .next t) :
    t.lifecycle = s.lifecycle ∨ t.lifecycle = .faulted := by
  obtain ⟨-, ⟨-, hexec⟩ | ⟨-, rfl⟩⟩ := step_next_cases h
  · obtain ⟨-, hl, -⟩ | ⟨record, -, rfl⟩ := (exec_effect hexec).sameBookkeeping_or_raise
    · exact .inl hl
    · exact .inr rfl
  · exact .inr rfl

/-- No `step()` leads to IDLE from another state. -/
theorem hostStep_lifecycle {s : State} {r : HostResult} (h : hostStep step s = .done r) :
    r.state.lifecycle = s.lifecycle ∨ r.state.lifecycle = .faulted := by
  obtain ⟨t, ht, rfl⟩ | ⟨record, -, rfl⟩ := hostStep_cases h
  · exact step_lifecycle ht
  · exact .inl rfl

/-- An invocation of the loop leads to HALTED or FAULTED, or keeps the lifecycle. -/
theorem runLoop_lifecycle {s : State} {r : HostResult} (h : runLoop step s = .done r) :
    r.state.lifecycle = s.lifecycle ∨ r.state.lifecycle = .halted ∨ r.state.lifecycle = .faulted := by
  obtain ⟨-, rfl⟩ | ⟨-, rfl⟩ | ⟨-, -, rfl⟩ | ⟨-, q, hq, rfl⟩ := runLoop_cases h
  · exact .inl rfl
  · exact .inl rfl
  · exact .inr (.inl rfl)
  · exact (hostStep_lifecycle hq).imp_right .inr

theorem loadProgram_lifecycle (p : ProgramImage) (s : State) :
    (loadProgram p s).state.lifecycle = s.lifecycle := by
  obtain ⟨-, heq⟩ | ⟨-, heq⟩ := loadProgram_cases p s
  · rw [heq, HostResult.quiet_state]
  · rw [heq]

/-- Settles O9: of the commands only a reset and a `run` whose load fails leave IDLE where it was not. -/
theorem resetIsIdempotentAndOnlyWayToIdle : Obligations.ResetIsIdempotentAndOnlyWayToIdle := by
  refine ⟨fun s => ⟨s.hostReset, rfl, rfl, rfl⟩, fun s c r hs h hidle => ?_⟩
  have hne : s.lifecycle ≠ .idle := by
    rintro hi
    simp [hi] at hs
  cases c with
  | reset => exact .inl rfl
  | loadProgram bytes origin =>
    cases h
    exact absurd ((loadProgram_lifecycle _ s).symm.trans hidle) hne
  | run bytes =>
    obtain ⟨-, rfl⟩ | rfl := hostRun_cases h
    · cases hidle
    · exact .inr ⟨bytes, rfl, rfl⟩
  | step =>
    have hl := hostStep_lifecycle h
    simp [hidle, hne.symm] at hl
  | invokeLoop =>
    have hl := runLoop_lifecycle h
    simp [hidle, hne.symm] at hl
  | keyIn keys =>
    cases h
    exact absurd hidle hne

/-! ### Memory and the framebuffer -/

theorem step_mem_eq {s t : State} (h : step s = .next t) : t.mem = s.mem := by
  obtain ⟨-, ⟨-, hexec⟩ | ⟨-, rfl⟩⟩ := step_next_cases h
  · exact (exec_effect hexec).mem_eq
  · rfl

theorem hostStep_mem_eq {s : State} {r : HostResult} (h : hostStep step s = .done r) : r.state.mem = s.mem := by
  obtain ⟨t, ht, rfl⟩ | ⟨record, -, rfl⟩ := hostStep_cases h
  · exact step_mem_eq ht
  · rfl

theorem runLoop_mem_eq {s : State} {r : HostResult} (h : runLoop step s = .done r) : r.state.mem = s.mem := by
  obtain ⟨-, rfl⟩ | ⟨-, rfl⟩ | ⟨-, -, rfl⟩ | ⟨-, q, hq, rfl⟩ := runLoop_cases h
  · rfl
  · rfl
  · rfl
  · exact (hostStep_mem_eq hq : q.state.mem = s.mem)

/-- Settles O41: no effect of an instruction writes memory, so nor does a step or an invocation of the loop. -/
theorem onlyHostWritesMemory : Obligations.OnlyHostWritesMemory := by
  refine ⟨fun i s t h => (exec_effect h).mem_eq, fun c s r h hreset hload hrun => ?_⟩
  cases c with
  | reset => exact absurd rfl hreset
  | loadProgram bytes origin => exact absurd rfl (hload bytes origin)
  | run bytes => exact absurd rfl (hrun bytes)
  | step => exact hostStep_mem_eq h
  | invokeLoop => exact runLoop_mem_eq h
  | keyIn keys =>
    cases h
    rfl

theorem loadProgram_fb (p : ProgramImage) (s : State) : (loadProgram p s).state.fb = s.fb := by
  obtain ⟨-, heq⟩ | ⟨-, heq⟩ := loadProgram_cases p s
  · rw [heq, HostResult.quiet_state]
  · rw [heq]

/-- Settles O42: of the effects only DRW's writes the framebuffer; a load writes memory and `programLength`. -/
theorem onlyDrawWritesTheScreen : Obligations.OnlyDrawWritesTheScreen := by
  refine ⟨fun i s t h hi => .of_fb ((exec_effect h).fb_eq hi), fun s bytes origin r h => ?load,
    fun s keys r h => ?keys, fun s => ?reset⟩
  case load =>
    cases h
    exact .of_fb (loadProgram_fb _ s)
  case keys =>
    cases h
    exact .of_fb rfl
  case reset =>
    obtain ⟨-, -, -, -, -, -, hpixel, -⟩ := s.hostReset_resetElements
    exact hpixel

/-! ### Loads and runs -/

theorem Memory.readByte_writeBytes_inside {m : Memory} (hm : m.wf = true) {a : Nat} {bs : List Byte}
    (hb : a + bs.length ≤ 4096) {j : Nat} (hj : j < bs.length) : (m.writeBytes a bs).readByte (a + j) = bs[j] := by
  rw [Memory.readByte_writeBytes hm a bs hb, dif_pos ⟨Nat.le_add_right a j, Nat.add_lt_add_left hj a⟩]
  simp only [Nat.add_sub_cancel_left]

theorem Memory.readByte_writeBytes_outside {m : Memory} (hm : m.wf = true) {a : Nat} {bs : List Byte}
    (hb : a + bs.length ≤ 4096) {k : Nat} (hk : k < a ∨ a + bs.length ≤ k) :
    (m.writeBytes a bs).readByte k = m.readByte k := by
  rw [Memory.readByte_writeBytes hm a bs hb, dif_neg (by omega)]

/-- Settles O50: a load that fits is one write of its bytes, and of `programLength`. -/
theorem loadWritesExactlyItsBytes : Obligations.LoadWritesExactlyItsBytes := by
  intro bytes origin s a₀ hwf hfits
  refine ⟨_, congrArg HostReply.done (loadProgram_of_le (p := ⟨bytes, a₀⟩) hfits s), rfl,
    fun j hj => Memory.readByte_writeBytes_inside hwf hfits hj,
    fun a ha => Memory.readByte_writeBytes_outside hwf hfits ha,
    .of_v rfl _, rfl, rfl, .of_eq rfl rfl, .of_fb rfl, rfl, rfl, rfl, rfl, rfl⟩

/-- Settles O51: the bound is tested before anything is written. -/
theorem overlongLoadChangesNothing : Obligations.OverlongLoadChangesNothing :=
  fun bytes origin s hlong =>
    congrArg HostReply.done (loadProgram_of_gt (p := ⟨bytes, loadOrigin origin⟩) hlong s)

/-- Settles O52: RUNNING is refused; else the load fits from 0x200 exactly when it has at most 3584 bytes. -/
theorem runResetsLoadsAndStarts : Obligations.RunResetsLoadsAndStarts := by
  intro bytes s
  refine ⟨fun hrun => if_pos hrun, fun hs hb => ?fits, fun hs hlong => ?overlong⟩
  case fits =>
    have hfits : 0x200 + bytes.length ≤ 4096 := Nat.add_le_add_left hb 0x200
    exact ⟨s.started bytes, hostRun_of_le hb hs, rfl, rfl, rfl,
      fun j hj => Memory.readByte_writeBytes_inside Memory.wf_nil hfits hj,
      fun a ha => Memory.readByte_writeBytes_outside Memory.wf_nil hfits ha, s.hostReset_resetElements⟩
  case overlong => exact ⟨s.hostReset, hostRun_of_gt hlong hs, s.hostReset_resetElements⟩

/-! ### Reads and keys -/

/-- Settles O57: each accessor reads its field; the two with an argument test its range. -/
theorem accessorsReturnTheStateOrReject : Obligations.AccessorsReturnTheStateOrReject := by
  intro s
  refine ⟨fun r => dif_pos r.isLt, fun k hk => dif_neg hk.not_gt, fun a ha => if_pos ha,
    fun a ha => if_neg ha.not_gt, fun a ha => ?snapshot, rfl, rfl, rfl, rfl, rfl, rfl, rfl⟩
  case snapshot => rw [dbgMemory, Vector.getElem_ofFn]

/-- Settles O58: the command leaves the state it found. -/
theorem keysAffectNothing : Obligations.KeysAffectNothing := fun _ _ => rfl

end Sys2Proof.Machine
end

section
/-!
PROOFS. The run loop and the continuous run (70_reset_and_hazards.md R121 to R133), runs without a fault, and the
parameter `SHR_SOURCE` (00_scope.md R5).
-/

namespace Sys2Proof.Machine

/-! ### One invocation of the loop -/

theorem step_answers_next {s : State} (hl : s.lifecycle ≠ .faulted) : ∃ t, step s = .next t := by
  obtain hpc | hpc := Nat.lt_or_ge s.pc.toNat 0xFFF
  · obtain ⟨t, ht⟩ := exec_answers_next (decodeWord s.fetchWord) (s.latchIr s.fetchWord)
    exact ⟨t, (cycle_of_canFetch hl hpc).trans ht⟩
  · exact ⟨_, cycle_of_fetchPast hl hpc⟩

theorem runLoop_of_halt {stepper : Stepper} {s : State} (hl : s.lifecycle = .running) (hpc : 4096 ≤ s.pc.toNat) :
    runLoop stepper s =
      .done { state := s.halt, events := [.completeOut], error := none, loopAgain := false } := by
  simp only [runLoop, hl, s.atHalt_iff.2 hpc, if_true]

theorem runLoop_of_next {stepper : Stepper} {s t : State} (hl : s.lifecycle = .running)
    (hpc : s.pc.toNat < 4096) (ht : stepper s = .next t) :
    runLoop stepper s = .done { state := t, events := faultSignal t, error := none, loopAgain := true } := by
  have hrunning : ¬ s.atHalt = true := mt s.atHalt_iff.1 hpc.not_ge
  simp only [runLoop, hl, if_neg hrunning, hostStep, ht]

/-- Settles O53: the halting condition is tested before the step, and a running core is not FAULTED. -/
theorem runLoopHaltsOrSteps : Obligations.RunLoopHaltsOrSteps := by
  intro s hl
  refine ⟨fun hpc => runLoop_of_halt hl hpc, fun hpc => ?_⟩
  obtain ⟨t, ht⟩ := step_answers_next (s := s) (by simp [hl])
  exact ⟨t, ht, runLoop_of_next hl hpc ht⟩

/-- The free completion is signalled once or not at all (R121). -/
theorem endedByReset_events (s : State) :
    (endedByReset s).events = [] ∨ (endedByReset s).events = [.completeOut] := by
  unfold endedByReset
  cases Config.completeAfterReset s.draws
  · exact .inl rfl
  · exact .inr rfl

/-- Settles O54: after the reset the core is IDLE, where the loop only draws whether to signal. -/
theorem resetEndsTheRun : Obligations.ResetEndsTheRun :=
  fun s _ => ⟨endedByReset s.hostReset, rfl, rfl, endedByReset_events _, s.hostReset_resetElements⟩

/-! ### The continuous run -/

theorem continuousRun_succ_of_halt (fuel : Nat) {s : State} (hl : s.lifecycle = .running)
    (hpc : 4096 ≤ s.pc.toNat) : continuousRun (fuel + 1) s = (s.halt, [.completeOut]) := by
  rw [continuousRun, continuousRunBy, runLoop_of_halt hl hpc]
  rfl

theorem continuousRun_succ_of_next (fuel : Nat) {s t : State} (hl : s.lifecycle = .running)
    (hpc : s.pc.toNat < 4096) (ht : step s = .next t) :
    continuousRun (fuel + 1) s = ((continuousRun fuel t).1, faultSignal t ++ (continuousRun fuel t).2) := by
  rw [continuousRun, continuousRunBy, runLoop_of_next hl hpc ht]
  rfl

/-- The loop does nothing in FAULTED (R125). -/
theorem continuousRun_of_faulted (fuel : Nat) {s : State} (hl : s.lifecycle = .faulted) :
    continuousRun fuel s = (s, []) := by
  cases fuel with
  | zero => rfl
  | succ fuel =>
    rw [continuousRun, continuousRunBy, runLoop, hl]
    rfl

theorem faultSignal_of_faulted {t : State} (h : t.lifecycle = .faulted) : faultSignal t = [.faultOut t.fault] :=
  if_pos h

theorem faultSignal_of_running {t : State} (h : t.lifecycle = .running) : faultSignal t = [] :=
  if_neg (by simp [h])

/-- What one more invocation of the loop does in RUNNING: it ends the run by a halt or a fault, or it is one step
after which the run goes on. -/
theorem continuousRun_succ_cases (fuel : Nat) {s : State} (hl : s.lifecycle = .running) :
    (4096 ≤ s.pc.toNat ∧ continuousRun (fuel + 1) s = (s.halt, [.completeOut])) ∨
      (∃ t, t.lifecycle = .faulted ∧ continuousRun (fuel + 1) s = (t, [.faultOut t.fault])) ∨
      ∃ t, step s = .next t ∧ t.lifecycle = .running ∧ continuousRun (fuel + 1) s = continuousRun fuel t := by
  obtain hpc | hpc := le_or_gt 4096 s.pc.toNat
  · exact .inl ⟨hpc, continuousRun_succ_of_halt fuel hl hpc⟩
  · obtain ⟨t, ht⟩ := step_answers_next (s := s) (by simp [hl])
    have hrun := continuousRun_succ_of_next fuel hl hpc ht
    obtain hlt | hlt := step_lifecycle ht
    · rw [faultSignal_of_running (hlt.trans hl)] at hrun
      exact .inr (.inr ⟨t, ht, hlt.trans hl, hrun⟩)
    · rw [faultSignal_of_faulted hlt, continuousRun_of_faulted fuel hlt] at hrun
      exact .inr (.inl ⟨t, hlt, hrun⟩)

/-- Settles O55, by induction on the invocations: only the last signals. -/
theorem completionIsSignalledExactlyOnce : Obligations.CompletionIsSignalledExactlyOnce := by
  intro fuel
  induction fuel with
  | zero => exact fun s hl => .inl ⟨hl, rfl⟩
  | succ fuel ih =>
    intro s hl
    obtain ⟨hpc, hrun⟩ | ⟨t, hlt, hrun⟩ | ⟨t, -, hlt, hrun⟩ := continuousRun_succ_cases fuel hl
    · rw [hrun]
      exact .inr (.inl ⟨rfl, hpc, rfl⟩)
    · rw [hrun]
      exact .inr (.inr ⟨hlt, rfl⟩)
    · rw [hrun]
      exact ih t hlt

/-! ### Steps in a row -/

theorem run_succ_of_next {k : Nat} {s t : State} (h : step s = .next t) :
    Sys2Proof.core.run (k + 1) s = Sys2Proof.core.run k t := by
  have hcore : Sys2Proof.core.step s = .next t := h
  simp only [Host.Core.run, hcore]

/-- Settles O56, by induction on the invocations: one that signals nothing is a step. -/
theorem runningLoopIsRepeatedSteps : Obligations.RunningLoopIsRepeatedSteps := by
  intro fuel
  induction fuel with
  | zero =>
    intro s t _ h
    cases h
    rfl
  | succ fuel ih =>
    intro s t hl h
    obtain ⟨-, hrun⟩ | ⟨u, -, hrun⟩ | ⟨u, hu, hlu, hrun⟩ := continuousRun_succ_cases fuel hl
    · cases hrun.symm.trans h
    · cases hrun.symm.trans h
    · exact (run_succ_of_next hu).trans (ih u t hlu (hrun.symm.trans h))

/-- A run of `k + 1` steps takes its first one. -/
theorem exists_step_of_run_succ {k : Nat} {s u : State} (h : Sys2Proof.core.run (k + 1) s = .next u) :
    ∃ t, step s = .next t ∧ Sys2Proof.core.run k t = .next u := by
  cases hstep : step s with
  | next t => exact ⟨t, rfl, (run_succ_of_next hstep).symm.trans h⟩
  | fault r =>
    have hcore : Sys2Proof.core.step s = .fault r := hstep
    simp only [Host.Core.run, hcore] at h
    cases h
  | refused r => exact absurd hstep (step_not_refused s r)

/-- A safe run does not start in FAULTED: no step leaves it. -/
theorem SafeRun.not_faulted {k : Nat} {s u : State} (h : SafeRun k s u) : s.lifecycle ≠ .faulted := by
  obtain ⟨hrun, hu⟩ := h
  cases k with
  | zero =>
    cases hrun
    exact hu
  | succ k =>
    obtain ⟨t, ht, -⟩ := exists_step_of_run_succ hrun
    exact (step_next_cases ht).1

theorem callsIn_succ_of_call {k : Nat} {s t : State} {nnn : Addr} (hi : s.nextInstr? = some (.call nnn))
    (ht : step s = .next t) : callsIn (k + 1) s = callsIn k t + 1 := by
  simp only [callsIn, hi, ht]

theorem callsIn_succ_of_other {k : Nat} {s t : State} {i : Instr} (hi : s.nextInstr? = some i)
    (hne : ∀ nnn, i ≠ .call nnn) (ht : step s = .next t) : callsIn (k + 1) s = callsIn k t := by
  cases i
  case call nnn => exact absurd rfl (hne nnn)
  all_goals simp only [callsIn, hi, ht]

/-- A step that takes no fault moves `SP` by the CALL it executes, if it executes one (10_state.md R23). -/
theorem sp_add_callsIn_succ (k : Nat) {s t : State} (h : step s = .next t) (hl : t.lifecycle ≠ .faulted) :
    t.sp.val + callsIn k t = s.sp.val + callsIn (k + 1) s := by
  obtain ⟨hs, ⟨hfetch, hexec⟩ | ⟨-, rfl⟩⟩ := step_next_cases h
  · have hi : s.nextInstr? = some (decodeWord s.fetchWord) := if_pos ⟨hs, hfetch⟩
    by_cases hcall : ∃ nnn, decodeWord s.fetchWord = .call nnn
    · obtain ⟨nnn, hnnn⟩ := hcall
      rw [hnnn] at hi hexec
      obtain ⟨hsp, rfl⟩ | ⟨-, rfl⟩ := execCall_cases hexec
      · rw [callsIn_succ_of_call hi h]
        change s.sp.val + 1 + _ = _
        omega
      · exact absurd rfl hl
    · rw [not_exists] at hcall
      rw [callsIn_succ_of_other hi hcall h, (exec_effect hexec).sp_eq hcall, State.latchIr_sp]
  · exact absurd rfl hl

theorem SafeRun.sp_eq {k : Nat} {s u : State} (h : SafeRun k s u) : u.sp.val = s.sp.val + callsIn k s := by
  induction k generalizing s with
  | zero =>
    obtain ⟨hrun, -⟩ := h
    cases hrun
    rfl
  | succ k ih =>
    obtain ⟨hrun, hu⟩ := h
    obtain ⟨t, ht, hrest⟩ := exists_step_of_run_succ hrun
    have hsafe : SafeRun k t u := ⟨hrest, hu⟩
    calc u.sp.val = t.sp.val + callsIn k t := ih hsafe
      _ = s.sp.val + callsIn (k + 1) s := sp_add_callsIn_succ k ht hsafe.not_faulted

/-- Settles O46: `SP` counts the calls, and it is at most 16. -/
theorem safeRunMakesAtMostSixteenCalls : Obligations.SafeRunMakesAtMostSixteenCalls := by
  intro k s t h
  have hsp := h.sp_eq
  have hle : t.sp.val ≤ 16 := Nat.le_of_lt_succ t.sp.isLt
  exact ⟨hsp, by omega⟩

/-! ### `SHR_SOURCE` as an argument -/

/-- At X the parameterised step is the step, so whatever is built on it is too. -/
theorem stepWith_x : stepWith .x = step := funext stepWith_shrSource

/-- Settles O59: only the arm of SHR reads the parameter, and only a step runs an arm. -/
theorem shiftSourceIsAnArgument : Obligations.ShiftSourceIsAnArgument := by
  refine ⟨execWith_shr, fun source i s hi => execWith_of_mnemonic_ne hi s, fun source s hl hpc => ?fetch,
    fun source s hs => ?noFetch, fun source c s hstep hloop => ?host, stepWith_shrSource, fun c s => ?hostX,
    fun fuel s => ?runX⟩
  case fetch => exact cycle_of_canFetch hl hpc
  case noFetch =>
    by_cases hl : s.lifecycle = .faulted
    · exact (cycle_of_faulted hl).trans (cycle_of_faulted hl).symm
    · have hpc : 0xFFF ≤ s.pc.toNat := hs.resolve_left hl
      exact (cycle_of_fetchPast hl hpc).trans (cycle_of_fetchPast hl hpc).symm
  case host =>
    cases c with
    | step => exact absurd rfl hstep
    | invokeLoop => exact absurd rfl hloop
    | reset | loadProgram | run | keyIn => rfl
  case hostX => rw [hostActionWith, stepWith_x, hostAction]
  case runX => rw [continuousRunWith, stepWith_x, continuousRun]

end Sys2Proof.Machine
end
